-- ==== Sys2Proof/Word.lean ====
section
/-! DEFINITION. The values that travel over the ports: the byte (R3) and the triple of signal levels (R9). -/

namespace Sys2Proof

/-- A byte is 8 bits, values 0x00 to 0xFF; every port carries bytes (R3). -/
abbrev Byte := BitVec 8

/-- A signal triple: the clock, mode-select and data-in levels (R9).  `false` is level 0, `true` is level 1. -/
structure Sig where
  clk : Bool
  mode : Bool
  data : Bool
  deriving DecidableEq, Repr

end Sys2Proof
end

