-- ==== Sys2Proof/Syntax.lean ====
section
/-! DEFINITION. The syntax: the ports an instruction byte can arrive on, the ten instructions of the opcode table, and the
decoded actions of the Signal Decoder. -/

namespace Sys2Proof

/-- The two ports that carry instruction bytes: NI from the network peer, SI from the serial transport (R23). -/
inductive Port where
  | ni
  | si
  deriving DecidableEq, Repr

/-- One constructor per row of the opcode table: nine classes of network byte (R35, R36, R37) and the readback byte (R39). -/
inductive Instr where
  /-- WRITE '0'..'7': the clock, mode-select and data-in levels (R35, R52) -/
  | write (c m d : Bool)
  /-- BLINK_ON 'B' (R53) -/
  | blinkOn
  /-- BLINK_OFF 'b' (R54) -/
  | blinkOff
  /-- RST_R 'r' (R55) -/
  | rstR
  /-- RST_T 't' (R56) -/
  | rstT
  /-- RST_S 's' (R57) -/
  | rstS
  /-- RST_U 'u' (R58) -/
  | rstU
  /-- READ 'R' (R59) -/
  | read
  /-- UNKNOWN: any other network byte, with its value (R37, R60) -/
  | unknown (v : Byte)
  /-- RDBK: any serial byte, taken raw (R39, R90) -/
  | rdbk (v : Byte)
  deriving DecidableEq, Repr

/-- The port an instruction arrives on (the "port" column of the opcode table). -/
def Instr.port : Instr → Port
  | .write _ _ _ => .ni
  | .blinkOn => .ni
  | .blinkOff => .ni
  | .rstR => .ni
  | .rstT => .ni
  | .rstS => .ni
  | .rstU => .ni
  | .read => .ni
  | .unknown _ => .ni
  | .rdbk _ => .si

/-- The decoded actions `DECODE` can give (R43). -/
inductive Action where
  | signal (c m d : Bool)
  | indicator (on : Bool)
  | sysreset (asserted : Bool)
  | read
  | unknown (v : Byte)
  deriving DecidableEq, Repr

end Sys2Proof
end

