-- ==== Sys2Proof/WellFormed.lean ====
section
/-! DEFINITION. Which terms of `Instr` stand for an instruction: an UNKNOWN carries a byte that neither R35 nor R36 names. -/

namespace Sys2Proof

/-- The byte is a WRITE command, `b[7:3]` = 0b00110 (R35). -/
def isWriteByte (b : Byte) : Bool := b.extractLsb' 3 5 == 0b00110#5

/-- The byte is one of the seven fixed commands 'B', 'b', 'r', 't', 's', 'u', 'R' (R36). -/
def isFixedByte (b : Byte) : Bool :=
  b == 0x42#8 || b == 0x62#8 || b == 0x72#8 || b == 0x74#8 || b == 0x73#8 || b == 0x75#8 || b == 0x52#8

/-- Well-formedness: UNKNOWN is the remainder, so its byte is in neither range (R37, R38); every other term stands for an
instruction whatever its operands (R35, R36, R39). -/
def Instr.wellFormed : Instr → Bool
  | .write _ _ _ => true
  | .blinkOn => true
  | .blinkOff => true
  | .rstR => true
  | .rstT => true
  | .rstS => true
  | .rstU => true
  | .read => true
  | .unknown v => !isWriteByte v && !isFixedByte v
  | .rdbk _ => true

end Sys2Proof
end

