-- ==== Sys2Proof/Decode.lean ====
section
/-! DEFINITION. The decoder, total on any bytes of either port, and after it the encoder, both from 30_encoding.md; then the
decoded actions of R43 and the pseudo-instruction of R42. -/

namespace Sys2Proof

/-- Why a byte string gives no instruction.  No byte value is reserved or illegal (R40), so the only reason is that there is
no byte. -/
inductive DecodeError where
  | noByte
  deriving DecidableEq, Repr

/-- What the decoder answers: the first instruction of the bytes with the bytes after it, or a rejection by name. -/
inductive Decoded where
  | instr (i : Instr) (rest : List Byte)
  | rejected (e : DecodeError)
  deriving DecidableEq, Repr

/-- The network decoder: the WRITE range and the fixed bytes first, UNKNOWN is the remainder (R35 to R38). -/
def decodeNet (b : Byte) : Instr :=
  if isWriteByte b then .write (b.getLsbD 2) (b.getLsbD 1) (b.getLsbD 0)
  else if b == 0x42#8 then .blinkOn
  else if b == 0x62#8 then .blinkOff
  else if b == 0x72#8 then .rstR
  else if b == 0x74#8 then .rstT
  else if b == 0x73#8 then .rstS
  else if b == 0x75#8 then .rstU
  else if b == 0x52#8 then .read
  else .unknown b

/-- One byte on a port: a network byte is decoded, a serial byte is a readback byte as it stands (R39). -/
def decodeByte (p : Port) (b : Byte) : Instr :=
  match p with
  | .ni => decodeNet b
  | .si => .rdbk b

/-- The first instruction of the bytes on a port, and the bytes after it: every instruction is exactly one byte (R33). -/
def decode (p : Port) (bs : List Byte) : Decoded :=
  match bs with
  | [] => .rejected .noByte
  | b :: rest => .instr (decodeByte p b) rest

/-- The byte of a WRITE command: 0x30 + 4c + 2m + d (R52, R35). -/
def writeByte (c m d : Bool) : Byte := BitVec.ofNat 8 (0x30 + 4 * c.toNat + 2 * m.toNat + d.toNat)

/-- The one byte of an instruction (R35, R36, R37, R39). -/
def encodeByte : Instr → Byte
  | .write c m d => writeByte c m d
  | .blinkOn => 0x42#8
  | .blinkOff => 0x62#8
  | .rstR => 0x72#8
  | .rstT => 0x74#8
  | .rstS => 0x73#8
  | .rstU => 0x75#8
  | .read => 0x52#8
  | .unknown v => v
  | .rdbk v => v

/-- The bytes of an instruction on its port: always one (R33). -/
def encode (i : Instr) : List Byte := [encodeByte i]

/-- The action an instruction decodes to; 'r' and 't' give the same action, and so do 's' and 'u' (R43).
A serial byte is not decoded and has no action (R39). -/
def Instr.action : Instr → Option Action
  | .write c m d => some (.signal c m d)
  | .blinkOn => some (.indicator true)
  | .blinkOff => some (.indicator false)
  | .rstR => some (.sysreset true)
  | .rstT => some (.sysreset true)
  | .rstS => some (.sysreset false)
  | .rstU => some (.sysreset false)
  | .read => some .read
  | .unknown v => some (.unknown v)
  | .rdbk _ => none

/-- `DECODE(b)`, the pure function of one network byte (R43, R44). -/
def decodeAction (b : Byte) : Option Action := (decodeNet b).action

/-- The pseudo-instruction `CLK(m, d)`: a clock-low byte, then a clock-high byte, with the same mode and data (R42). -/
def clkBytes (m d : Bool) : List Byte := [writeByte false m d, writeByte true m d]

/-- The host's question: the instruction the decoder reads from a table word.  Every row of the table is one byte (R33); the
word has no port in it, so it is read as a byte on NI, the port of nine rows of the ten (log entry 13). -/
def decodeTableWord (nbits w : Nat) : Option Instr :=
  if nbits = 8 ∧ w < 256 then
    match decode .ni [BitVec.ofNat 8 w] with
    | .instr i _ => some i
    | .rejected _ => none
  else none

end Sys2Proof
end

