-- ==== Sys2Proof/Config.lean ====
section
/-! DEFINITION. What is fixed for one block: the log bound, the initial signal triple, and the one point the spec leaves
OPEN, the policy after a serial I/O error (00_scope.md section 4, summary of parameters). -/

namespace Sys2Proof

/-- `LOG_BOUND`: no shift content log ever holds more than 80 elements (R2). -/
def Config.logBound : Nat := 80

/-- `INIT_SIG`: the signal triple at session start (R10; the spec's own choice, decision D4; log entry 5). -/
def Config.initSig : Sig := { clk := false, mode := false, data := false }

/-- The three values `serial_error_policy` may take (R107, decision D28, OPEN). -/
inductive SerialErrorPolicy where
  /-- the byte is lost, the block goes on -/
  | ignore
  /-- handled as a CLOSE (R102) -/
  | closePeer
  /-- handled as a STOP (R106) -/
  | stop
  deriving DecidableEq, Repr, Inhabited

/-- The policy of this block after a serial I/O error: one of the three, and nothing says which (R107).
A free value: it has no body, so a proof about a serial error holds for every policy (log entry 6). -/
opaque Config.serialErrorPolicy : SerialErrorPolicy

end Sys2Proof
end

