-- ==== Sys2Proof/Machine/State.lean ====
section
/-! DEFINITION. The state of the block, whole and as plain data; its event records; its inputs; the reasons it stops; and the
state at session start. -/

namespace Sys2Proof.Machine

/-- The 16 TAP states, in the order of R7. -/
inductive TapState where
  | reset | idle
  | drselect | drcapture | drshift | drexit1 | drpause | drexit2 | drupdate
  | irselect | ircapture | irshift | irexit1 | irpause | irexit2 | irupdate
  deriving DecidableEq, Repr

/-- What the element `TAP` can hold: one of the 16 states (R7), or a value outside them, which only the fatal
internal-consistency error of R71 reads.  `outside k` is the value 16 + k (vector FT1; log entry 4). -/
inductive TapReg where
  | state (t : TapState)
  | outside (k : Nat)
  deriving DecidableEq, Repr

/-- An element of DRIN or IRIN: the characters '0', '1' and ' ' (R11). -/
inductive ShiftChar where
  | zero
  | one
  | space
  deriving DecidableEq, Repr

/-- The direction a SNAPSHOT reports (R95). -/
inductive Dir where
  | dr
  | ir
  deriving DecidableEq, Repr

/-- The event records of R109, each with its payload. -/
inductive Event where
  /-- 0x01, anomaly: the byte (R60, R111) -/
  | unknownChar (v : Byte)
  /-- 0x02, anomaly: TAP (R59, R112) -/
  | readOutOfState (s : TapReg)
  /-- 0x03, anomaly: the stored and the new triple (R48, R113) -/
  | changedOnEdge (old new : Sig)
  /-- 0x04, anomaly: TAP (R93, R114) -/
  | unexpectedRead (s : TapReg)
  /-- 0x10, transition: from state, to state (R70) -/
  | transition (source target : TapState)
  /-- 0x11, content: the direction, the log just written, DRSEEN, IRSEEN (R95) -/
  | snapshot (dir : Dir) (log drseen irseen : List Byte)
  /-- 0x20, action: on or off (R53, R54) -/
  | indicator (on : Bool)
  /-- 0x21, action: asserted or deasserted (R55 to R58) -/
  | sysreset (asserted : Bool)
  /-- 0x22, action: the shift state (R59) -/
  | readRequest (s : TapState)
  /-- 0x30, transport (R102) -/
  | disconnected
  /-- 0xF0, fatal: the invalid TAP value (R115) -/
  | fatalInternal (v : TapReg)
  deriving DecidableEq, Repr

/-- The Connection Slot (R15). -/
inductive Conn where
  | none
  | peer
  deriving DecidableEq, Repr

/-- Where the boot order of R127 stands: the block starts only after the serial transport has been opened (R105). -/
inductive SerialPort where
  | unopened
  | opened
  | openFailed
  deriving DecidableEq, Repr

/-- Why the environment closes the peer's connection (R102, R104, R108). -/
inductive CloseCause where
  /-- the peer disconnected -/
  | disconnect
  /-- a socket-level error on receive -/
  | receiveError
  /-- a socket-level error on send: a failed `send NO(v)` (R104) -/
  | sendError
  deriving DecidableEq, Repr

/-- One item of an input trace (R41), one event of one port of R23, or a serial I/O error (R107), or the outcome of opening
the serial transport (R105, R127). -/
inductive Input where
  /-- a byte from the connected peer on NI -/
  | netByte (b : Byte)
  /-- a byte from the serial transport on SI -/
  | serByte (v : Byte)
  /-- a new peer connection (R99) -/
  | accept
  /-- disconnect or socket-level error of the peer (R102) -/
  | close (cause : CloseCause)
  /-- external interrupt (R106) -/
  | stop
  /-- a serial read or write error after a successful open (R107) -/
  | serialError
  /-- `open(config)` succeeded (`true`) or failed with OpenError (`false`) (R105, R127) -/
  | openResult (ok : Bool)
  deriving DecidableEq, Repr

/-- Why the block has no further step.  Every constructor is raised only where the spec says that no agent steps, so each is
safe: the model stops exactly where the spec has no step. -/
inductive Fault where
  /-- FATAL is set: "the block is stopped for good" (R115, R16).  Raised by `step` when no STOP is pending and by every
  meaning.  Safe. -/
  | fatalInternal
  /-- STOPPED is set: both agents take no further step and the process has exited with status 0 (R106, R16).  Raised by
  `step` and by every meaning.  Safe. -/
  | stopped
  /-- opening the serial transport failed: no step of either agent occurs and the process has exited with status 1 (R105).
  Raised by `step` and by every meaning.  Safe. -/
  | serialOpenFailed
  /-- the serial transport is not open yet: the block has not started (R105, R127).  Raised by a meaning applied before the
  start; `step` never runs one there.  Safe. -/
  | serialNotOpen
  deriving DecidableEq, Repr

/-- Why an instruction has no meaning in a state. -/
inductive Refusal where
  /-- the instruction has no meaning in this model yet; no arm of `exec` uses it.  Safe. -/
  | notModelled (mnemonic : String)
  /-- a network instruction while `CONN` = NONE: a network byte step happens only while `CONN` = PEER (R62, R45).  Raised by
  the nine network meanings; `step` never runs one there.  Safe. -/
  | noPeer
  deriving DecidableEq, Repr

/-- The state of the block: every element of 10_state.md section 1, then the model's own two fields. -/
structure State where
  /-- the current TAP state (R7) -/
  tap : TapReg
  /-- the stored signal triple (R9) -/
  sig : Sig
  /-- the DR-in log, element 0 the oldest (R11) -/
  drin : List ShiftChar
  /-- the IR-in log, element 0 the oldest (R11) -/
  irin : List ShiftChar
  /-- the DR-out log, element 0 the newest (R12) -/
  drout : List Byte
  /-- the IR-out log, element 0 the newest (R12) -/
  irout : List Byte
  /-- the DR-seen set, its values in rising order (R13; log entry 3) -/
  drseen : List Byte
  /-- the IR-seen set, its values in rising order (R13; log entry 3) -/
  irseen : List Byte
  /-- the Connection Slot (R15) -/
  conn : Conn
  /-- the sticky fatal flag (R16) -/
  fatal : Bool
  /-- the sticky stop flag (R16) -/
  stopped : Bool
  /-- bytes written to the serial transport, oldest first (R19) -/
  so : List Byte
  /-- bytes written to the network peer, oldest first (R19) -/
  no : List Byte
  /-- event records, oldest first (R19) -/
  ev : List Event
  /-- the model's own: where the boot order stands (R105, R127; log entry 8) -/
  serial : SerialPort
  /-- the model's own: the inputs still to come, in the chosen interleaving (R29, R41; log entry 1) -/
  inputs : List Input
  deriving DecidableEq, Repr

/-- Session start: the state right after the serial transport was opened, with no input yet (R125). -/
def State.reset : State where
  tap := .state .reset
  sig := Config.initSig
  drin := []
  irin := []
  drout := []
  irout := []
  drseen := []
  irseen := []
  conn := .none
  fatal := false
  stopped := false
  so := []
  no := []
  ev := []
  serial := .opened
  inputs := []

/-- Before session start: the serial transport has not been opened, so the block has not started (R127, step 1). -/
def State.powerOn : State := { State.reset with serial := .unopened }

end Sys2Proof.Machine
end

