-- ==== Sys2Proof/Machine/Operands.lean ====
section
/-! DEFINITION. The operand forms: the levels of a WRITE command as a signal triple, the data-in level as a log character, the
numbers of TAP states, log characters and event records. -/

namespace Sys2Proof.Machine

/-- The triple a WRITE command carries: all three levels (R35, R50). -/
def writeTriple (c m d : Bool) : Sig := { clk := c, mode := m, data := d }

/-- The data-in level as a log character: '1' if it is 1, else '0' (R65, R66). -/
def dataChar (d : Bool) : ShiftChar := if d then .one else .zero

/-- The byte of a log character (R34). -/
def ShiftChar.byte : ShiftChar → Byte
  | .zero => 0x30#8
  | .one => 0x31#8
  | .space => 0x20#8

/-- The position of a TAP state in the list of R7, held in 4 bits (R8).  Reporting only: no rule reads it. -/
def TapState.index : TapState → BitVec 4
  | .reset => 0#4
  | .idle => 1#4
  | .drselect => 2#4
  | .drcapture => 3#4
  | .drshift => 4#4
  | .drexit1 => 5#4
  | .drpause => 6#4
  | .drexit2 => 7#4
  | .drupdate => 8#4
  | .irselect => 9#4
  | .ircapture => 10#4
  | .irshift => 11#4
  | .irexit1 => 12#4
  | .irpause => 13#4
  | .irexit2 => 14#4
  | .irupdate => 15#4

/-- The number `TAP` holds: the index of a state (R8), or a value that is no state (R71). -/
def TapReg.number : TapReg → Nat
  | .state t => t.index.toNat
  | .outside k => 16 + k

/-- The class column of R109. -/
inductive EventClass where
  | anomaly
  | transition
  | content
  | action
  | transport
  | fatal
  deriving DecidableEq, Repr

/-- The numeric code of an event record (R109; decision D14).  No rule reads it. -/
def Event.code : Event → Byte
  | .unknownChar _ => 0x01#8
  | .readOutOfState _ => 0x02#8
  | .changedOnEdge _ _ => 0x03#8
  | .unexpectedRead _ => 0x04#8
  | .transition _ _ => 0x10#8
  | .snapshot _ _ _ _ => 0x11#8
  | .indicator _ => 0x20#8
  | .sysreset _ => 0x21#8
  | .readRequest _ => 0x22#8
  | .disconnected => 0x30#8
  | .fatalInternal _ => 0xF0#8

/-- The class of an event record (R109). -/
def Event.kindClass : Event → EventClass
  | .unknownChar _ => .anomaly
  | .readOutOfState _ => .anomaly
  | .changedOnEdge _ _ => .anomaly
  | .unexpectedRead _ => .anomaly
  | .transition _ _ => .transition
  | .snapshot _ _ _ _ => .content
  | .indicator _ => .action
  | .sysreset _ => .action
  | .readRequest _ => .action
  | .disconnected => .transport
  | .fatalInternal _ => .fatal

end Sys2Proof.Machine
end

