-- ==== Sys2Proof/Machine/Flags.lean ====
section
/-! DEFINITION. The block has no condition flags (R18).  In their place stand the conditions a step computes from the state and
its operands: the rising edge, the changed-on-edge anomaly, the shift states. -/

namespace Sys2Proof.Machine

/-- A rising edge: the stored clock level is 0 and the new one is 1 (R47). -/
def risingEdge (old new : Sig) : Bool := !old.clk && new.clk

/-- The mode or the data level of the new triple differs from the stored one (R48). -/
def modeOrDataDiffer (old new : Sig) : Bool := new.mode != old.mode || new.data != old.data

/-- The changed-on-edge condition: only on a rising edge (R48). -/
def changedOnEdge (old new : Sig) : Bool := risingEdge old new && modeOrDataDiffer old new

/-- The shift state `TAP` holds, DRSHIFT or IRSHIFT, if it holds one (R59, R90). -/
def TapReg.shiftState? : TapReg → Option TapState
  | .state .drshift => some .drshift
  | .state .irshift => some .irshift
  | .state _ => none
  | .outside _ => none

end Sys2Proof.Machine
end

