-- ==== Sys2Proof/Machine/Ops.lean ====
section
/-! DEFINITION. The named operations the meanings share: the output streams, the bounded logs, the seen sets, the fatal error
(the block's one exception), and when an agent may take a step.  The block has no addressable memory and no register file
(R18, R22). -/

namespace Sys2Proof.Machine

/-! ### Output streams (R19) -/

/-- `send SO(b)`: append to the serial-out stream. -/
def State.sendSo (b : Byte) (s : State) : State := { s with so := s.so ++ [b] }

/-- `send NO(v)`: append to the network-out stream. -/
def State.sendNo (v : Byte) (s : State) : State := { s with no := s.no ++ [v] }

/-- `emit`: append an event record to EV. -/
def State.emit (e : Event) (s : State) : State := { s with ev := s.ev ++ [e] }

/-! ### Bounded logs and seen sets -/

/-- The last `min(n, len)` elements of a log (00_scope.md section 5). -/
def takeLast {α : Type} (n : Nat) (l : List α) : List α := l.drop (l.length - n)

/-- The bounded append: keep the last `LOG_BOUND - 1` elements, put the new one at the tail (R64). -/
def bappend {α : Type} (l : List α) (x : α) : List α := takeLast (Config.logBound - 1) l ++ [x]

/-- The bounded prepend: put the new element at the head, keep the first `LOG_BOUND` (R89). -/
def bprepend {α : Type} (l : List α) (x : α) : List α := (x :: l).take Config.logBound

/-- Add a byte value to a seen set; the list keeps its values in rising order without repeats, so equal sets are equal
lists (R13, R94; log entry 3). -/
def insertSeen (v : Byte) : List Byte → List Byte
  | [] => [v]
  | x :: r => if v.toNat < x.toNat then v :: x :: r else if v = x then x :: r else x :: insertSeen v r

/-! ### The fatal error (R115)

The block has no trap vector, no saved program counter and no return from a trap (R120).  What it has in the place of taking
an exception is this one operation; nothing returns from it. -/

/-- `raise FatalInternal(TAP)`: report the invalid value and set the sticky flag; nothing else is written, and the caller
performs no more of its step (R115). -/
def State.raiseFatal (s : State) : State := { s.emit (.fatalInternal s.tap) with fatal := true }

/-! ### When an agent may step -/

/-- Why no agent has a step: FATAL or STOPPED is set (R16), or the serial transport is not open (R105). -/
def State.haltReason (s : State) : Option Fault :=
  if s.stopped then some .stopped
  else if s.fatal then some .fatalInternal
  else match s.serial with
    | .opened => none
    | .openFailed => some .serialOpenFailed
    | .unopened => some .serialNotOpen

/-- The frame of every network byte step: A_NET takes the byte only while `CONN` = PEER, `FATAL` = false and `STOPPED` = false
(R45, R62); the byte goes to SO unmodified, first (R46); then the rest of the step. -/
def netStep (b : Byte) (body : State → State) (s : State) : Host.Outcome State Fault Refusal :=
  match s.haltReason with
  | some f => .fault f
  | none =>
    match s.conn with
    | .peer => .next (body (s.sendSo b))
    | .none => .refused .noPeer

/-- The frame of the serial byte step: A_SER takes the byte while `FATAL` = false and `STOPPED` = false, whether or not a
peer is connected (R90). -/
def serStep (body : State → State) (s : State) : Host.Outcome State Fault Refusal :=
  match s.haltReason with
  | some f => .fault f
  | none => .next (body s)

/-! ### What the process shows outside (R105, R106) -/

/-- The exit status of the process, once it has exited: 1 after a failed open (R105), 0 after a STOP (R106).  The spec gives
none after the fatal error. -/
def State.exitStatus (s : State) : Option Nat :=
  if s.stopped then some 0
  else match s.serial with
    | .openFailed => some 1
    | .opened => none
    | .unopened => none

/-- The block holds the serial transport: from the successful open until STOP releases it (R105, R106).
DESIGN CHOICE: also after the fatal error, where the spec gives no release (R115; log entry 15). -/
def State.holdsSerial (s : State) : Bool := s.serial == .opened && !s.stopped

/-- The block holds an open network socket: while a peer is connected, until STOP closes it (R15, R106).
DESIGN CHOICE: also after the fatal error, where the spec gives no close (R115; log entry 15). -/
def State.holdsSocket (s : State) : Bool := s.conn == .peer && !s.stopped

/-! ### Inputs -/

/-- What the block does with an input of its trace in a state: take it in a step of its own, leave it waiting untouched, or
never process it. -/
inductive Admission where
  | take
  | wait
  | discard
  deriving DecidableEq, Repr

/-- Which inputs have a step in a started, running block (R62, R90, R99, R101, R102, R106, R107). -/
def Conn.admits (c : Conn) : Input → Admission
  | .netByte _ => match c with
    | .peer => .take
    | .none => .discard
  | .serByte _ => .take
  | .accept => match c with
    | .peer => .wait
    | .none => .take
  | .close _ => match c with
    | .peer => .take
    | .none => .discard
  | .stop => .take
  | .serialError => .take
  | .openResult _ => .discard

/-- Which inputs have a step before the start: only the outcome of the open, and STOP (R105, R106, R127). -/
def beforeStartAdmits : Input → Admission
  | .netByte _ => .wait
  | .serByte _ => .wait
  | .accept => .wait
  | .close _ => .wait
  | .stop => .take
  | .serialError => .wait
  | .openResult _ => .take

/-- Which inputs have a step after the fatal error: neither agent has a step (R115); STOP comes from the environment, "in any
state" (R106; log entry 10).  DESIGN CHOICE: a serial error waits, whatever the policy, also the failed SO write of the very step
that set FATAL; R107 does not say whether the policy `stop` still acts then (log entry 6). -/
def afterFatalAdmits : Input → Admission
  | .netByte _ => .wait
  | .serByte _ => .wait
  | .accept => .wait
  | .close _ => .wait
  | .stop => .take
  | .serialError => .wait
  | .openResult _ => .wait

/-- Which inputs have a step at all: none after STOP or a failed open, when the process has exited (R16, R105, R106). -/
def State.admits (s : State) (i : Input) : Admission :=
  if s.stopped then .wait
  else match s.serial with
    | .openFailed => .wait
    | .unopened => beforeStartAdmits i
    | .opened => if s.fatal then afterFatalAdmits i else s.conn.admits i

/-- The first input of a trace that does not wait, and the trace without it: what waits stays in its place, untouched
(R101, R137). -/
def nextInput (s : State) : List Input → Option (Input × List Input)
  | [] => none
  | i :: rest =>
    match s.admits i with
    | .wait => (nextInput s rest).map (fun p => (p.1, i :: p.2))
    | .take => some (i, rest)
    | .discard => some (i, rest)

/-- The environment puts an input at the end of the trace: inputs are taken in the order they arrive (R26). -/
def State.arrive (i : Input) (s : State) : State := { s with inputs := s.inputs ++ [i] }

/-- The bytes of a string arriving on NI, in order (R41). -/
def netTrace (bs : List Byte) : List Input := bs.map .netByte

/-- The bytes of a string arriving on SI, in order (R41). -/
def serTrace (bs : List Byte) : List Input := bs.map .serByte

/-- Put a byte first on NI, with a peer connected in a started, running block, so that the next step is A_NET's step on it
(R45). -/
def State.withNetByte (b : Byte) (s : State) : State :=
  { s with serial := .opened, fatal := false, stopped := false, conn := .peer, inputs := .netByte b :: s.inputs }

/-- Put a byte first on SI, in a started, running block, so that the next step is A_SER's step on it (R90). -/
def State.withSerByte (v : Byte) (s : State) : State :=
  { s with serial := .opened, fatal := false, stopped := false, inputs := .serByte v :: s.inputs }

end Sys2Proof.Machine
end

