-- ==== Sys2Proof/Machine/Connection.lean ====
section
/-! DEFINITION. The inputs that carry no instruction: accept, close, stop, the outcome of opening the serial transport, and a
serial I/O error (43_connection.md).  `Step.lean` runs one only in a state that admits it. -/

namespace Sys2Proof.Machine

/-- ACCEPT: install the peer in the slot; no event, nothing else (R99, R103). -/
def acceptStep (s : State) : State := { s with conn := .peer }

/-- CLOSE: clear the slot and report the disconnection; nothing else is reset, whatever the cause (R102, R103, R104). -/
def closeStep (s : State) : State := { s with conn := .none }.emit .disconnected

/-- STOP: set the sticky flag; no event (R106). -/
def stopStep (s : State) : State := { s with stopped := true }

/-- The outcome of opening the serial transport: session start, with the inputs still to come, or the failed start
(R105, R125, R127). -/
def openStep (ok : Bool) (s : State) : State :=
  if ok then { State.reset with inputs := s.inputs } else { s with serial := .openFailed }

/-- A serial I/O error after the start, handled by the policy: the byte is lost, or as CLOSE (which needs a peer), or as STOP
(R107). -/
def serialErrorStep (p : SerialErrorPolicy) (s : State) : State :=
  match p with
  | .ignore => s
  | .closePeer => match s.conn with
    | .peer => closeStep s
    | .none => s
  | .stop => stopStep s

end Sys2Proof.Machine
end

