-- ==== Sys2Proof/Machine/Readback.lean ====
section
/-! DEFINITION. RDBK: the readback tracker and the serial-to-network path (42_readback.md). -/

namespace Sys2Proof.Machine

/-- The tracker: gated by the current TAP state; the byte joins the seen set and the head of the log of its direction, and
the snapshot shows both as just written (R90, R91, R92, R95); in any other state only the anomaly (R93). -/
def observe (v : Byte) (s : State) : State :=
  match s.tap.shiftState? with
  | some .drshift =>
    { s with
      drseen := insertSeen v s.drseen
      drout := bprepend s.drout v
      ev := s.ev ++ [.snapshot .dr (bprepend s.drout v) (insertSeen v s.drseen) s.irseen] }
  | some .irshift =>
    { s with
      irseen := insertSeen v s.irseen
      irout := bprepend s.irout v
      ev := s.ev ++ [.snapshot .ir (bprepend s.irout v) s.drseen (insertSeen v s.irseen)] }
  | _ => s.emit (.unexpectedRead s.tap)

/-- What goes to NO: the raw byte while a peer is connected, nothing otherwise; no event reports the drop (R96). -/
def forwarded (c : Conn) (v : Byte) : List Byte :=
  match c with
  | .peer => [v]
  | .none => []

/-- After the tracker, the serial byte step forwards (R96). -/
def forward (v : Byte) (s : State) : State := { s with no := s.no ++ forwarded s.conn v }

/-- RDBK: the serial byte step (R90). -/
def execRdbk (v : Byte) (s : State) : Host.Outcome State Fault Refusal :=
  serStep (fun t => forward v (observe v t)) s

end Sys2Proof.Machine
end

