-- ==== Sys2Proof/Machine/SideChannel.lean ====
section
/-! DEFINITION. The network commands with no signal values: the indicator, the system-reset pairs, the readback request and
the unknown byte (40_signal_decoder.md section 4). -/

namespace Sys2Proof.Machine

/-- BLINK_ON 'B': forward, report INDICATOR(on), nothing else (R53). -/
def execBlinkOn (s : State) : Host.Outcome State Fault Refusal :=
  netStep 0x42#8 (State.emit (.indicator true)) s

/-- BLINK_OFF 'b': forward, report INDICATOR(off), nothing else (R54). -/
def execBlinkOff (s : State) : Host.Outcome State Fault Refusal :=
  netStep 0x62#8 (State.emit (.indicator false)) s

/-- RST_R 'r': forward, report SYSRESET(asserted); TAP and the logs stay (R55). -/
def execRstR (s : State) : Host.Outcome State Fault Refusal :=
  netStep 0x72#8 (State.emit (.sysreset true)) s

/-- RST_T 't': the same record as 'r'; only the byte on SO differs (R56). -/
def execRstT (s : State) : Host.Outcome State Fault Refusal :=
  netStep 0x74#8 (State.emit (.sysreset true)) s

/-- RST_S 's': forward, report SYSRESET(deasserted); TAP and the logs stay (R57). -/
def execRstS (s : State) : Host.Outcome State Fault Refusal :=
  netStep 0x73#8 (State.emit (.sysreset false)) s

/-- RST_U 'u': the same record as 's'; only the byte on SO differs (R58). -/
def execRstU (s : State) : Host.Outcome State Fault Refusal :=
  netStep 0x75#8 (State.emit (.sysreset false)) s

/-- The report of a readback request: READ_REQUEST in a shift state, the anomaly READ_OUT_OF_STATE in any other (R59). -/
def readEvent (t : TapReg) : Event :=
  match t.shiftState? with
  | some u => .readRequest u
  | none => .readOutOfState t

/-- READ 'R': forward in every state, report by the TAP state at this step (R59). -/
def execRead (s : State) : Host.Outcome State Fault Refusal :=
  netStep 0x52#8 (fun t => t.emit (readEvent t.tap)) s

/-- UNKNOWN: forward unchanged, report UNKNOWN_CHAR with the byte (R60). -/
def execUnknown (v : Byte) (s : State) : Host.Outcome State Fault Refusal :=
  netStep v (State.emit (.unknownChar v)) s

end Sys2Proof.Machine
end

