-- ==== Sys2Proof/Machine/Tap.lean ====
section
/-! DEFINITION. The TAP State Machine (41_tap_fsm.md): the transition table, the update and its log rules. -/

namespace Sys2Proof.Machine

/-- `NEXT(s, m)`, the transition table; it does not read the data-in level (R63). -/
def tapNext : TapState → Bool → TapState
  | .reset, true => .reset
  | .reset, false => .idle
  | .idle, true => .drselect
  | .idle, false => .idle
  | .drselect, true => .irselect
  | .drselect, false => .drcapture
  | .drcapture, true => .drexit1
  | .drcapture, false => .drshift
  | .drshift, true => .drexit1
  | .drshift, false => .drshift
  | .drexit1, true => .drupdate
  | .drexit1, false => .drpause
  | .drpause, true => .drexit2
  | .drpause, false => .drpause
  | .drexit2, true => .drupdate
  | .drexit2, false => .drshift
  | .drupdate, true => .drselect
  | .drupdate, false => .idle
  | .irselect, true => .reset
  | .irselect, false => .ircapture
  | .ircapture, true => .irexit1
  | .ircapture, false => .irshift
  | .irshift, true => .irexit1
  | .irshift, false => .irshift
  | .irexit1, true => .irupdate
  | .irexit1, false => .irpause
  | .irpause, true => .irexit2
  | .irpause, false => .irpause
  | .irexit2, true => .irupdate
  | .irexit2, false => .irshift
  | .irupdate, true => .drselect
  | .irupdate, false => .idle

/-- The bit rule of one log: in its shift state the update appends the data-in character, whatever the mode level
(R66, R67). -/
def appendBit (here : Bool) (d : Bool) (l : List ShiftChar) : List ShiftChar :=
  if here then bappend l (dataChar d) else l

/-- The separator rule of one log: when the successor is its EXIT1 state the update appends one space, bounded like a bit
(R68, R69; decisions D7, D8). -/
def appendSeparator (here : Bool) (l : List ShiftChar) : List ShiftChar :=
  if here then bappend l .space else l

/-- `DRIN` after an update from t with mode m and data d: the bit first, then the separator (R65, R66, R68). -/
def drinAfter (t : TapState) (m d : Bool) (l : List ShiftChar) : List ShiftChar :=
  appendSeparator (tapNext t m == .drexit1) (appendBit (t == .drshift) d l)

/-- `IRIN` after an update from t with mode m and data d: the bit first, then the separator (R65, R67, R69). -/
def irinAfter (t : TapState) (m d : Bool) (l : List ShiftChar) : List ShiftChar :=
  appendSeparator (tapNext t m == .irexit1) (appendBit (t == .irshift) d l)

/-- The event of a transition: exactly one when the state changes, none when it does not (R70). -/
def transitionEvents (t u : TapState) : List Event :=
  if u = t then [] else [.transition t u]

/-- `UPDATE(m, d)` (R65): from a value outside the 16 states it raises FatalInternal and writes nothing (R71); from a state it
applies exactly one transition. -/
def tapUpdate (m d : Bool) (s : State) : State :=
  match s.tap with
  | .outside _ => s.raiseFatal
  | .state t =>
    { s with
      drin := drinAfter t m d s.drin
      irin := irinAfter t m d s.irin
      tap := .state (tapNext t m)
      ev := s.ev ++ transitionEvents t (tapNext t m) }

end Sys2Proof.Machine
end

