-- ==== Sys2Proof/Machine/Write.lean ====
section
/-! DEFINITION. WRITE: the edge detector of the network byte step (40_signal_decoder.md sections 2 and 3). -/

namespace Sys2Proof.Machine

/-- The record that mode or data changed only at this edge, if they did (R48). -/
def changeReport (old new : Sig) : List Event :=
  if changedOnEdge old new then [.changedOnEdge old new] else []

/-- Before the TAP update, report the change (R48). -/
def reportChange (old new : Sig) (s : State) : State :=
  { s with ev := s.ev ++ changeReport old new }

/-- `SIG <- (c, m, d)` (R50); the fatal error leaves the rest of the step unperformed, so SIG keeps its value then (R115). -/
def storeSig (new : Sig) (s : State) : State :=
  if s.fatal then s else { s with sig := new }

/-- The SIGNAL arm of the network byte step: on a rising edge the anomaly, then exactly one update with the new mode and data
levels (R47, R48, R49); the triple is stored whether or not there was an edge (R50). -/
def signalArm (new : Sig) (s : State) : State :=
  if risingEdge s.sig new then
    storeSig new (tapUpdate new.mode new.data (reportChange s.sig new s))
  else storeSig new s

/-- WRITE '0'..'7' (R52). -/
def execWrite (c m d : Bool) (s : State) : Host.Outcome State Fault Refusal :=
  netStep (writeByte c m d) (signalArm (writeTriple c m d)) s

end Sys2Proof.Machine
end

