-- ==== Sys2Proof/Machine/Dispatch.lean ====
section
/-! DEFINITION. One arm per constructor of `Instr`, each a direct call of its meaning. -/

namespace Sys2Proof.Machine

def exec (i : Instr) (s : State) : Host.Outcome State Fault Refusal :=
  match i with
  | .write c m d => Sys2Proof.Machine.execWrite c m d s
  | .blinkOn => Sys2Proof.Machine.execBlinkOn s
  | .blinkOff => Sys2Proof.Machine.execBlinkOff s
  | .rstR => Sys2Proof.Machine.execRstR s
  | .rstT => Sys2Proof.Machine.execRstT s
  | .rstS => Sys2Proof.Machine.execRstS s
  | .rstU => Sys2Proof.Machine.execRstU s
  | .read => Sys2Proof.Machine.execRead s
  | .unknown v => Sys2Proof.Machine.execUnknown v s
  | .rdbk v => Sys2Proof.Machine.execRdbk v s

end Sys2Proof.Machine
end

