-- ==== Sys2Proof/Machine/Agents.lean ====
section
/-! DEFINITION. What one step of the block does with the first input that does not wait: one atomic step of one agent, or of
the environment (R1, R5, R27, R28). -/

namespace Sys2Proof.Machine

/-- The two agents of R5, and the environment. -/
inductive Agent where
  | aNet
  | aSer
  | environment
  deriving DecidableEq, Repr

/-- Who takes the step on an input: A_NET accepts, closes and takes network bytes, A_SER takes serial bytes; STOP, the
outcome of the open and a serial I/O error come from the environment (R5, R99, R102, R106, R107). -/
def Input.agent : Input → Agent
  | .netByte _ => .aNet
  | .serByte _ => .aSer
  | .accept => .aNet
  | .close _ => .aNet
  | .stop => .environment
  | .serialError => .environment
  | .openResult _ => .environment

/-- The step on one admitted input: a byte is decoded on its port and executed (R45, R90); the other inputs act as
43_connection.md says. -/
def perform (i : Input) (s : State) : Host.Outcome State Fault Refusal :=
  match i with
  | .netByte b => exec (decodeByte .ni b) s
  | .serByte v => exec (decodeByte .si v) s
  | .accept => .next (acceptStep s)
  | .close _ => .next (closeStep s)
  | .stop => .next (stopStep s)
  | .serialError => .next (serialErrorStep Config.serialErrorPolicy s)
  | .openResult ok => .next (openStep ok s)

/-- With no input to take, a block that is running or has not started waits in its state (R137, R127); a block that has no
further step is stopped (R16, R105, R106, R115). -/
def idleStep (s : State) : Host.Outcome State Fault Refusal :=
  match s.haltReason with
  | none => .next s
  | some .serialNotOpen => .next s
  | some .stopped => .fault .stopped
  | some .fatalInternal => .fault .fatalInternal
  | some .serialOpenFailed => .fault .serialOpenFailed

/-- One step of the block: the first input of the trace that does not wait is taken or, if it can have no step, never
processed (R41, R62, R108). -/
def blockStep (s : State) : Host.Outcome State Fault Refusal :=
  match nextInput s s.inputs with
  | none => idleStep s
  | some (i, rest) =>
    match s.admits i with
    | .take => perform i { s with inputs := rest }
    | .wait => .next s
    | .discard => .next { s with inputs := rest }

end Sys2Proof.Machine
end

