-- ==== Sys2Proof/Machine/Step.lean ====
section
/-! DEFINITION. The step function, and the host's way to place an instruction before it. -/

namespace Sys2Proof.Machine

/-- One step of the block (R1). -/
def step (s : State) : Host.Outcome State Fault Refusal := blockStep s

/-- The host's fetch: the byte stands first on NI with a peer connected, so the next step is A_NET's step on it
(log entry 12). -/
def State.withFetchWord (s : State) (nbits w : Nat) : State :=
  s.withNetByte (BitVec.ofNat 8 (w % 2 ^ nbits))

end Sys2Proof.Machine
end

