-- ==== Sys2Proof/Safety.lean ====
section
/-! DEFINITION. The terms claims use: when an agent is ready to step, what stays true of a session, the views of the two agents,
and the states a session can reach under any environment. -/

namespace Sys2Proof.Machine

/-- No agent is barred from stepping: FATAL and STOPPED are false (R16) and the serial transport is open (R105).
These are the conditions under which A_SER takes a byte (R90). -/
abbrev SerReady (s : State) : Prop := s.fatal = false ∧ s.stopped = false ∧ s.serial = .opened

/-- The conditions under which A_NET takes a network byte: a peer is connected, FATAL and STOPPED are false (R45, R62), and
the block has started (R105). -/
abbrev NetReady (s : State) : Prop := s.conn = .peer ∧ SerReady s

/-- The TAP state `TAP` holds, if it holds one of the 16 (R7). -/
def TapReg.state? : TapReg → Option TapState
  | .state t => some t
  | .outside _ => none

/-- `TAP` holds one of the 16 states (R7). -/
abbrev TapLegal (s : State) : Prop := s.tap.state?.isSome = true

/-- No shift content log holds more than `LOG_BOUND` elements (R2). -/
abbrev LogsBounded (s : State) : Prop :=
  s.drin.length ≤ Config.logBound ∧ s.irin.length ≤ Config.logBound ∧
  s.drout.length ≤ Config.logBound ∧ s.irout.length ≤ Config.logBound

/-- A seen set in canonical form: its values strictly rising (R13; log entry 3). -/
abbrev SeenCanonical (l : List Byte) : Prop := l.Pairwise (fun a b => a.toNat < b.toNat)

/-- Both seen sets are in canonical form. -/
abbrev SeenSetsCanonical (s : State) : Prop := SeenCanonical s.drseen ∧ SeenCanonical s.irseen

/-- Every byte of a readback log is in the seen set of its direction (R91, R92, R94). -/
abbrev ReadbackLogged (s : State) : Prop := (∀ v ∈ s.drout, v ∈ s.drseen) ∧ (∀ v ∈ s.irout, v ∈ s.irseen)

/-- A peer is connected only in a started block (R105, R127). -/
abbrev PeerOnlyWhenStarted (s : State) : Prop := s.conn = .peer → s.serial = .opened

/-- What stays true of a session: `TAP` is one of the 16 states and the fatal error has not happened (R7, R115), the logs are
bounded (R2), the seen sets are canonical and hold what the readback logs hold (R13, R94), and a peer is connected only
in a started block (R105). -/
structure SessionInv (s : State) : Prop where
  tapLegal : TapLegal s
  notFatal : s.fatal = false
  logsBounded : LogsBounded s
  seenCanonical : SeenSetsCanonical s
  readbackLogged : ReadbackLogged s
  peerStarted : PeerOnlyWhenStarted s

/-- Follow the TRANSITION records of an event stream from a TAP state: each must leave the state reached so far, along an edge
of the table, to a different state (R63, R70). -/
def followTransitions (t : TapState) : List Event → Option TapState
  | [] => some t
  | .transition a b :: rest =>
    if a = t ∧ b ≠ a ∧ (b = tapNext a true ∨ b = tapNext a false) then followTransitions b rest else none
  | _ :: rest => followTransitions t rest

/-- The event stream tells the TAP state: its TRANSITION records form one path of the table from RESET to `TAP` (R63, R70). -/
abbrev EventsTrackTap (s : State) : Prop := TapLegal s ∧ followTransitions .reset s.ev = s.tap.state?

/-- `n` steps, one after another, stopping where a step stops. -/
def run : Nat → State → Host.Outcome State Fault Refusal
  | 0, s => .next s
  | n + 1, s =>
    match step s with
    | .next t => run n t
    | .fault r => .fault r
    | .refused r => .refused r

/-- What A_NET reads and writes, with the flags and its output (R21, R123). -/
structure NetView where
  tap : TapReg
  sig : Sig
  drin : List ShiftChar
  irin : List ShiftChar
  conn : Conn
  fatal : Bool
  stopped : Bool
  serial : SerialPort
  so : List Byte
  deriving DecidableEq, Repr

/-- The network side of a state. -/
def State.netView (s : State) : NetView :=
  ⟨s.tap, s.sig, s.drin, s.irin, s.conn, s.fatal, s.stopped, s.serial, s.so⟩

/-- The network bytes of a trace, in order. -/
def netBytesOf : List Input → List Byte
  | [] => []
  | .netByte b :: rest => b :: netBytesOf rest
  | _ :: rest => netBytesOf rest

/-- The serial bytes of a trace, in order. -/
def serBytesOf : List Input → List Byte
  | [] => []
  | .serByte v :: rest => v :: serBytesOf rest
  | _ :: rest => serBytesOf rest

/-- A trace of bytes only: any interleaving of network and serial bytes (R29). -/
def bytesOnly (tr : List Input) : Bool :=
  tr.all fun i => match i with
    | .netByte _ => true
    | .serByte _ => true
    | _ => false

/-- The states a session can reach: from before or at session start, under any inputs the environment adds at any time, in
any interleaving (R29, R127). -/
inductive Reachable : State → Prop
  | powerOn : Reachable State.powerOn
  | reset : Reachable State.reset
  | arrive {s : State} (i : Input) : Reachable s → Reachable (s.arrive i)
  | step {s t : State} : Reachable s → Sys2Proof.Machine.step s = .next t → Reachable t

end Sys2Proof.Machine
end

