-- ==== Sys2Proof/Certificates/Slice0/Obligations.lean ====
section
/-! DEFINITION. The statements for the provers.  A docstring names the rule a statement formalises; where it rests on a choice the
spec marks as its own decision (D<n> of 92_eei_decisions.md) or on a choice of this model, the docstring says so. -/

open Sys2Proof Sys2Proof.Machine

namespace Sys2Proof.Machine

/-- The rows of R63 up to DRUPDATE: a state, its successor for m = 1, its successor for m = 0. -/
def tapRowsDr : List (TapState × TapState × TapState) :=
  [(.reset, .reset, .idle), (.idle, .drselect, .idle), (.drselect, .irselect, .drcapture),
   (.drcapture, .drexit1, .drshift), (.drshift, .drexit1, .drshift), (.drexit1, .drupdate, .drpause),
   (.drpause, .drexit2, .drpause), (.drexit2, .drupdate, .drshift), (.drupdate, .drselect, .idle)]

/-- The rows of R63 from IRSELECT. -/
def tapRowsIr : List (TapState × TapState × TapState) :=
  [(.irselect, .reset, .ircapture), (.ircapture, .irexit1, .irshift), (.irshift, .irexit1, .irshift),
   (.irexit1, .irupdate, .irpause), (.irpause, .irexit2, .irpause), (.irexit2, .irupdate, .irshift),
   (.irupdate, .drselect, .idle)]

/-- The table of R63, row by row. -/
def tapTable : List (TapState × TapState × TapState) := tapRowsDr ++ tapRowsIr

/-- The changed-on-edge record a rising edge puts before the update's own, or nothing (R48). -/
def edgeReport (old : Sig) (m d : Bool) : List Event :=
  if m ≠ old.mode ∨ d ≠ old.data then [.changedOnEdge old ⟨true, m, d⟩] else []

/-- The pseudocode of R45, arm by arm of the decoded action, on the byte and the state A_NET takes it in. -/
def netStepPseudocode (b : Byte) (s : State) : State :=
  let sent : State := { s with so := s.so ++ [b] }
  match decodeAction b with
  | some (.signal c m d) =>
    if s.sig.clk = false ∧ c = true then
      let reported : State := { sent with ev := sent.ev ++ edgeReport s.sig m d }
      let updated := tapUpdate m d reported
      if updated.fatal then updated else { updated with sig := ⟨c, m, d⟩ }
    else { sent with sig := ⟨c, m, d⟩ }
  | some (.indicator x) => { sent with ev := sent.ev ++ [.indicator x] }
  | some (.sysreset x) => { sent with ev := sent.ev ++ [.sysreset x] }
  | some .read =>
    if s.tap = .state .drshift then { sent with ev := sent.ev ++ [.readRequest .drshift] }
    else if s.tap = .state .irshift then { sent with ev := sent.ev ++ [.readRequest .irshift] }
    else { sent with ev := sent.ev ++ [.readOutOfState s.tap] }
  | some (.unknown v) => { sent with ev := sent.ev ++ [.unknownChar v] }
  | none => s

/-- A function of the state applied to the next state of an outcome. -/
def mapNext (f : State → State) : Host.Outcome State Fault Refusal → Host.Outcome State Fault Refusal
  | .next t => .next (f t)
  | .fault r => .fault r
  | .refused r => .refused r

/-- Older contents put before the three output streams. -/
def withOlderOutputs (so no : List Byte) (ev : List Event) (s : State) : State :=
  { s with so := so ++ s.so, no := no ++ s.no, ev := ev ++ s.ev }

end Sys2Proof.Machine

/-! ### Encoding -/

/-- Words written out bit by bit from the encodings of 30_encoding.md sections 2 to 5 decode to what they stand for. -/
def Obligations.WrittenOutWordsDecode : Prop :=
  decode .ni [0b00110000#8] = .instr (.write false false false) [] ∧
  decode .ni [0b00110101#8] = .instr (.write true false true) [] ∧
  decode .ni [0b00110110#8] = .instr (.write true true false) [] ∧
  decode .ni [0b01000010#8] = .instr .blinkOn [] ∧
  decode .ni [0b01100010#8] = .instr .blinkOff [] ∧
  decode .ni [0b01110010#8] = .instr .rstR [] ∧
  decode .ni [0b01110100#8] = .instr .rstT [] ∧
  decode .ni [0b01110011#8] = .instr .rstS [] ∧
  decode .ni [0b01110101#8] = .instr .rstU [] ∧
  decode .ni [0b01010010#8] = .instr .read [] ∧
  decode .ni [0b01010001#8] = .instr (.unknown 0x51#8) [] ∧
  decode .ni [0b10110100#8] = .instr (.unknown 0xB4#8) [] ∧
  decode .si [0b01010010#8] = .instr (.rdbk 0x52#8) [] ∧
  decode .ni [] = .rejected .noByte

/-- R35: a byte whose bits 7:3 are 00110 is a WRITE with c, m, d in bits 2, 1, 0; the character '0'+n carries the bits of n;
and these are the bytes 0x30 to 0x37. -/
def Obligations.WriteByteCarriesItsThreeLevels : Prop :=
  (∀ b : Byte, b.extractLsb' 3 5 = 0b00110#5 →
    decodeNet b = .write (b.getLsbD 2) (b.getLsbD 1) (b.getLsbD 0)) ∧
  (∀ b : Byte, b.extractLsb' 3 5 = 0b00110#5 ↔ 0x30 ≤ b.toNat ∧ b.toNat ≤ 0x37) ∧
  (∀ n : Nat, n < 8 → decodeNet (BitVec.ofNat 8 (0x30 + n)) = .write (n.testBit 2) (n.testBit 1) (n.testBit 0))

/-- R43: the table of `DECODE`, for every byte; 'r' and 't' decode to one action, and so do 's' and 'u'. -/
def Obligations.DecodeGivesTheActionTable : Prop :=
  ∀ b : Byte, decodeAction b = some (
    if 0x30 ≤ b.toNat ∧ b.toNat ≤ 0x37 then .signal (b.getLsbD 2) (b.getLsbD 1) (b.getLsbD 0)
    else if b = 0x42#8 then .indicator true
    else if b = 0x62#8 then .indicator false
    else if b = 0x72#8 ∨ b = 0x74#8 then .sysreset true
    else if b = 0x73#8 ∨ b = 0x75#8 then .sysreset false
    else if b = 0x52#8 then .read
    else .unknown b)

/-- R37 and R38 (derived in the spec): the UNKNOWN bytes are the six ranges of R37, and the three classes have 8, 7 and 241
bytes. -/
def Obligations.EveryByteIsInExactlyOneClass : Prop :=
  (∀ b : Byte, decodeNet b = .unknown b ↔
    b.toNat ≤ 0x2F ∨ (0x38 ≤ b.toNat ∧ b.toNat ≤ 0x41) ∨ (0x43 ≤ b.toNat ∧ b.toNat ≤ 0x51) ∨
    (0x53 ≤ b.toNat ∧ b.toNat ≤ 0x61) ∨ (0x63 ≤ b.toNat ∧ b.toNat ≤ 0x71) ∨ 0x76 ≤ b.toNat) ∧
  ((List.range 256).filter fun n => isWriteByte (BitVec.ofNat 8 n)).length = 8 ∧
  ((List.range 256).filter fun n => isFixedByte (BitVec.ofNat 8 n)).length = 7 ∧
  ((List.range 256).filter fun n => (Instr.unknown (BitVec.ofNat 8 n)).wellFormed).length = 241

/-- Decoding and encoding agree, both ways, for every instruction of both ports with any bytes after it (R33, R35 to R39). -/
def Obligations.DecodeAndEncodeAgree : Prop :=
  (∀ (i : Instr) (rest : List Byte), i.wellFormed = true → decode i.port (encode i ++ rest) = .instr i rest) ∧
  (∀ (p : Port) (bs : List Byte) (i : Instr) (rest : List Byte), decode p bs = .instr i rest →
    i.wellFormed = true ∧ i.port = p ∧ bs = encode i ++ rest)

/-! ### The step -/

/-- A step runs the decoded instruction of the byte at the head of the trace, on NI and on SI, in the state with that byte
consumed; and the byte the host places is the one the next step runs. -/
def Obligations.StepRunsTheDecodedInstruction : Prop :=
  (∀ (s : State) (b : Byte) (rest : List Input), NetReady s → s.inputs = .netByte b :: rest →
    step s = exec (decodeNet b) { s with inputs := rest }) ∧
  (∀ (s : State) (v : Byte) (rest : List Input), SerReady s → s.inputs = .serByte v :: rest →
    step s = exec (.rdbk v) { s with inputs := rest }) ∧
  (∀ (s : State) (w : Nat), w < 256 → step (s.withFetchWord 8 w) =
    exec (decodeNet (BitVec.ofNat 8 w)) { s with serial := .opened, fatal := false, stopped := false, conn := .peer })

/-- R100, R101 (decision D21): while a peer is connected, waiting ACCEPTs have no step.  Any other input behind them is taken as
if they were not there, and they stay untouched; with nothing else in the trace the block waits. -/
def Obligations.WaitingAcceptsAreLeftUntouched : Prop :=
  (∀ (s : State) (n : Nat) (i : Input) (rest : List Input), NetReady s → i ≠ .accept →
    s.inputs = List.replicate n .accept ++ i :: rest →
    step s = mapNext (fun t => { t with inputs := List.replicate n .accept ++ t.inputs })
      (step { s with inputs := i :: rest })) ∧
  (∀ (s : State) (n : Nat), NetReady s → s.inputs = List.replicate n .accept → step s = .next s)

/-- A step answers a next state exactly when there is an input to take or the block is not done: stopped, after the fatal
error, or after a failed open (R16, R105, R106, R115, R137); and no step is ever refused (R40).  That these states stop is the
spec's; that a block with nothing to take steps to its own state is the model's reading of R137 (log entry 9). -/
def Obligations.StepStopsExactlyWhenTheBlockIsDone : Prop :=
  (∀ s : State, (∃ t, step s = .next t) ↔
    ¬ (nextInput s s.inputs = none ∧ (s.stopped = true ∨ s.fatal = true ∨ s.serial = .openFailed))) ∧
  (∀ (s : State) (r : Refusal), step s ≠ .refused r)

/-- R137: a started block with no input stays in its state forever. -/
def Obligations.BlockWithoutInputStaysInItsState : Prop :=
  ∀ (s : State) (n : Nat), SerReady s → s.inputs = [] → run n s = .next s

/-! ### WRITE and the edge detector -/

/-- The whole effect of WRITE from every one of the 16 states (R52; the separator and its order are decisions D7, D8, D9). -/
def Obligations.WriteCompletesWithItsWholeEffect : Prop :=
  ∀ (c m d : Bool) (s : State) (t : TapState), NetReady s → s.tap = .state t →
    exec (.write c m d) s = .next (
      if s.sig.clk = false ∧ c = true then
        { s with
          so := s.so ++ [writeByte c m d]
          sig := ⟨c, m, d⟩
          tap := .state (tapNext t m)
          drin :=
            let l := if t = .drshift then bappend s.drin (if d then .one else .zero) else s.drin
            if tapNext t m = .drexit1 then bappend l .space else l
          irin :=
            let l := if t = .irshift then bappend s.irin (if d then .one else .zero) else s.irin
            if tapNext t m = .irexit1 then bappend l .space else l
          ev := s.ev ++ edgeReport s.sig m d ++
            (if tapNext t m = t then [] else [Event.transition t (tapNext t m)]) }
      else { s with so := s.so ++ [writeByte c m d], sig := ⟨c, m, d⟩ })

/-- R48 and R49: on a rising edge the anomaly comes first, if the mode or the data level differs from the stored one, and the
update runs once, with the levels of the byte; a byte that is no rising edge reports nothing and updates nothing. -/
def Obligations.RisingEdgeReportsThenUpdatesOnce : Prop :=
  ∀ (c m d : Bool) (s : State) (t : TapState), NetReady s → s.tap = .state t →
    ∃ u, exec (.write c m d) s = .next u ∧
      (s.sig.clk = false ∧ c = true ∧ (m ≠ s.sig.mode ∨ d ≠ s.sig.data) →
        u.ev = s.ev ++ [Event.changedOnEdge s.sig ⟨c, m, d⟩] ++ transitionEvents t (tapNext t m) ∧
        u.tap = (tapUpdate m d s).tap ∧ u.drin = (tapUpdate m d s).drin ∧ u.irin = (tapUpdate m d s).irin) ∧
      (s.sig.clk = false ∧ c = true ∧ m = s.sig.mode ∧ d = s.sig.data →
        u.ev = s.ev ++ transitionEvents t (tapNext t m) ∧
        u.tap = (tapUpdate m d s).tap ∧ u.drin = (tapUpdate m d s).drin ∧ u.irin = (tapUpdate m d s).irin) ∧
      (s.sig.clk = true ∨ c = false →
        u.ev = s.ev ∧ u.tap = s.tap ∧ u.drin = s.drin ∧ u.irin = s.irin)

/-- R50 (decision D13): a network command that completes without the fatal error leaves in SIG the three levels of a WRITE
byte, edge or not, and any other command leaves SIG as it was. -/
def Obligations.OnlyWriteStoresTheTriple : Prop :=
  ∀ (i : Instr) (s t : State), i.port = .ni → exec i s = .next t → t.fatal = false →
    (∀ c m d, i = .write c m d → t.sig = ⟨c, m, d⟩) ∧ ((∀ c m d, i ≠ .write c m d) → t.sig = s.sig)

/-- R71 and R115 (decision D19; log entry 4): a rising edge while `TAP` holds a value outside the 16 states raises the fatal
error: the byte is on SO, the anomaly is reported if there is one, FATAL is set and everything else keeps its value.
Without a rising edge nothing reads `TAP` and the byte is an ordinary WRITE. -/
def Obligations.EdgeOutsideTheSixteenStatesIsFatal : Prop :=
  ∀ (c m d : Bool) (s : State) (k : Nat), NetReady s → s.tap = .outside k →
    exec (.write c m d) s = .next (
      if s.sig.clk = false ∧ c = true then
        { s with
          so := s.so ++ [writeByte c m d]
          ev := s.ev ++ edgeReport s.sig m d ++ [Event.fatalInternal s.tap]
          fatal := true }
      else { s with so := s.so ++ [writeByte c m d], sig := ⟨c, m, d⟩ })

/-- R16 (decisions D19, D20): in a started block no step clears FATAL or STOPPED; while either is true no agent has a step: no
instruction completes, and the only step is STOP, which changes nothing but STOPPED (and consumes its own input); with no
STOP to come the block is stopped by name.  That STOP is still taken after the fatal error, and that a serial error is not, are
the model's readings (log entries 10 and 6). -/
def Obligations.FatalAndStoppedEndEveryAgentsSteps : Prop :=
  (∀ (s : State) (i : Instr) (t : State), s.fatal = true ∨ s.stopped = true → exec i s ≠ .next t) ∧
  (∀ s t : State, s.serial = .opened → s.fatal = true → step s = .next t →
    s.stopped = false ∧ ∃ rest, t = { s with stopped := true, inputs := rest }) ∧
  (∀ s : State, s.serial = .opened → s.fatal = true → s.stopped = false → .stop ∉ s.inputs →
    step s = .fault .fatalInternal) ∧
  (∀ s : State, s.stopped = true → step s = .fault .stopped)

/-! ### The TAP state machine -/

/-- R4 (and the numbering of R8, decision D6): there are exactly 16 TAP states, and their indexes are 0 to 15 in the order of
R7. -/
def Obligations.ThereAreSixteenTapStates : Prop :=
  tapTable.length = 16 ∧ (tapTable.map Prod.fst).Nodup ∧ (∀ t : TapState, t ∈ tapTable.map Prod.fst) ∧
  tapTable.map (fun r => r.1.index.toNat) = List.range 16

/-- R63: a rising edge moves `TAP` exactly by the table, for every state and mode, whatever the data level; the table has a row
for every state. -/
def Obligations.TapMovesByTheTable : Prop :=
  (∀ t : TapState, ∃ r ∈ tapTable, r.1 = t) ∧
  (∀ r ∈ tapTable, ∀ (d : Bool) (s : State), NetReady s → s.tap = .state r.1 → s.sig.clk = false →
    (∃ u, exec (.write true true d) s = .next u ∧ u.tap = .state r.2.1) ∧
    (∃ u, exec (.write true false d) s = .next u ∧ u.tap = .state r.2.2))

/-- R73, R74, R77 to R81, R84 to R87 (and RESET, R72): outside the CAPTURE and SHIFT states a rising edge takes the successor of the
row, changes no log, and reports the transition unless the state stays. -/
def Obligations.StatesThatShiftNothingLeaveTheLogs : Prop :=
  ∀ r ∈ tapTable, r.1 ∉ [TapState.drcapture, .drshift, .ircapture, .irshift] →
    ∀ (m d : Bool) (s : State), NetReady s → s.tap = .state r.1 → s.sig.clk = false →
      ∃ u, exec (.write true m d) s = .next u ∧ u.tap = .state (if m then r.2.1 else r.2.2) ∧
        u.drin = s.drin ∧ u.irin = s.irin ∧
        u.ev = s.ev ++ edgeReport s.sig m d ++
          (if (if m then r.2.1 else r.2.2) = r.1 then [] else [Event.transition r.1 (if m then r.2.1 else r.2.2)])

/-- R76 and R83: in a shift state the bit is appended to the log of its direction; with m = 1 the state moves to EXIT1, the
transition is reported and a separator follows the bit, so a full log loses two elements; with m = 0 the state stays,
silent.  (That the separator is bounded and comes after the bit are the spec's decisions D8 and D9.) -/
def Obligations.ShiftStatesAppendTheBitThenTheSeparator : Prop :=
  ∀ (d : Bool) (s : State), NetReady s → s.sig.clk = false →
    (s.tap = .state .drshift →
      (∃ u, exec (.write true true d) s = .next u ∧ u.tap = .state .drexit1 ∧ u.irin = s.irin ∧
        u.drin = bappend (bappend s.drin (dataChar d)) .space ∧
        (s.drin.length = 80 → u.drin = s.drin.drop 2 ++ [dataChar d, .space]) ∧
        u.ev = s.ev ++ edgeReport s.sig true d ++ [Event.transition .drshift .drexit1]) ∧
      (∃ u, exec (.write true false d) s = .next u ∧ u.tap = .state .drshift ∧ u.irin = s.irin ∧
        u.drin = bappend s.drin (dataChar d) ∧ u.ev = s.ev ++ edgeReport s.sig false d)) ∧
    (s.tap = .state .irshift →
      (∃ u, exec (.write true true d) s = .next u ∧ u.tap = .state .irexit1 ∧ u.drin = s.drin ∧
        u.irin = bappend (bappend s.irin (dataChar d)) .space ∧
        (s.irin.length = 80 → u.irin = s.irin.drop 2 ++ [dataChar d, .space]) ∧
        u.ev = s.ev ++ edgeReport s.sig true d ++ [Event.transition .irshift .irexit1]) ∧
      (∃ u, exec (.write true false d) s = .next u ∧ u.tap = .state .irshift ∧ u.drin = s.drin ∧
        u.irin = bappend s.irin (dataChar d) ∧ u.ev = s.ev ++ edgeReport s.sig false d))

/-- R75 and R82 (decisions D7, D8): from a CAPTURE state no bit is appended; m = 1 enters EXIT1 with a separator in the log of the
direction, m = 0 enters the shift state with the logs unchanged. -/
def Obligations.CaptureStatesAppendOnlyTheSeparator : Prop :=
  ∀ (d : Bool) (s : State), NetReady s → s.sig.clk = false →
    (s.tap = .state .drcapture →
      (∃ u, exec (.write true true d) s = .next u ∧ u.tap = .state .drexit1 ∧ u.irin = s.irin ∧
        u.drin = bappend s.drin .space ∧
        u.ev = s.ev ++ edgeReport s.sig true d ++ [Event.transition .drcapture .drexit1]) ∧
      (∃ u, exec (.write true false d) s = .next u ∧ u.tap = .state .drshift ∧ u.irin = s.irin ∧
        u.drin = s.drin ∧ u.ev = s.ev ++ edgeReport s.sig false d ++ [Event.transition .drcapture .drshift])) ∧
    (s.tap = .state .ircapture →
      (∃ u, exec (.write true true d) s = .next u ∧ u.tap = .state .irexit1 ∧ u.drin = s.drin ∧
        u.irin = bappend s.irin .space ∧
        u.ev = s.ev ++ edgeReport s.sig true d ++ [Event.transition .ircapture .irexit1]) ∧
      (∃ u, exec (.write true false d) s = .next u ∧ u.tap = .state .irshift ∧ u.drin = s.drin ∧
        u.irin = s.irin ∧ u.ev = s.ev ++ edgeReport s.sig false d ++ [Event.transition .ircapture .irshift]))

/-- R64: the bounded append keeps the last 80 of the log with the new element at the tail; below 80 elements it drops nothing, at
80 exactly the head. -/
def Obligations.BoundedAppendDropsOnlyTheHead : Prop :=
  ∀ (l : List ShiftChar) (x : ShiftChar),
    bappend l x = takeLast 79 l ++ [x] ∧ bappend l x = takeLast 80 (l ++ [x]) ∧
    (l.length < 80 → bappend l x = l ++ [x]) ∧ (l.length = 80 → bappend l x = l.tail ++ [x])

/-- R89: the bounded prepend keeps the first 80 of the log with the new byte at the head; below 80 elements it drops nothing, at
80 exactly the tail. -/
def Obligations.BoundedPrependDropsOnlyTheTail : Prop :=
  ∀ (l : List Byte) (x : Byte),
    bprepend l x = (x :: l).take 80 ∧
    (l.length < 80 → bprepend l x = x :: l) ∧ (l.length = 80 → bprepend l x = x :: l.dropLast)

/-- R66 and R67: an update from DRSHIFT (IRSHIFT) appends the data bit to DRIN (IRIN) whatever the mode, before the separator of
an EXIT1 entry; an update from any other state appends no bit to it: the log stays, or gains one separator.  (The separator's
causes, its bound and its order are the spec's decisions D7, D8 and D9.) -/
def Obligations.BitsAreAppendedOnlyInShiftStates : Prop :=
  ∀ (m d : Bool) (s : State) (t : TapState), s.tap = .state t →
    (t = .drshift → (tapUpdate m d s).drin =
      if m then bappend (bappend s.drin (if d then .one else .zero)) .space
      else bappend s.drin (if d then .one else .zero)) ∧
    (t ≠ .drshift → (tapUpdate m d s).drin = if tapNext t m = .drexit1 then bappend s.drin .space else s.drin) ∧
    (t = .irshift → (tapUpdate m d s).irin =
      if m then bappend (bappend s.irin (if d then .one else .zero)) .space
      else bappend s.irin (if d then .one else .zero)) ∧
    (t ≠ .irshift → (tapUpdate m d s).irin = if tapNext t m = .irexit1 then bappend s.irin .space else s.irin)

/-- R70: an update emits exactly one TRANSITION when the state changes and nothing when it does not; the silent updates are
exactly the six of the rule; a silent update in a shift state still appends its bit. -/
def Obligations.TransitionsAreReportedExactlyOnChange : Prop :=
  (∀ (m d : Bool) (s : State) (t : TapState), s.tap = .state t →
    (tapNext t m ≠ t → (tapUpdate m d s).ev = s.ev ++ [Event.transition t (tapNext t m)]) ∧
    (tapNext t m = t → (tapUpdate m d s).ev = s.ev)) ∧
  (∀ (t : TapState) (m : Bool), tapNext t m = t ↔
    (t = .reset ∧ m = true) ∨ (t ∈ [TapState.idle, .drshift, .drpause, .irshift, .irpause] ∧ m = false)) ∧
  (∀ (d : Bool) (s : State),
    (s.tap = .state .drshift → (tapUpdate false d s).drin = bappend s.drin (dataChar d)) ∧
    (s.tap = .state .irshift → (tapUpdate false d s).irin = bappend s.irin (dataChar d)))

/-- R88 and R132 (derived in the spec): five or more CLK(1, d), whatever the data bits, drive `TAP` to RESET from every state, as
network bytes of a connected peer. -/
def Obligations.FiveModeOneClocksReachReset : Prop :=
  ∀ (ds : List Bool) (s : State), NetReady s → TapLegal s → 5 ≤ ds.length →
    s.inputs = netTrace (ds.flatMap (clkBytes true)) →
    ∃ t, run (2 * ds.length) s = .next t ∧ t.tap = .state .reset ∧ t.inputs = []

/-- R42 and R129 (decision D27): CLK(m, d) makes exactly one rising edge and no changed-on-edge report, whatever the levels before
it: two steps move `TAP` by the table once. -/
def Obligations.ClkMakesOneCleanEdge : Prop :=
  ∀ (m d : Bool) (s : State) (t : TapState) (rest : List Input), NetReady s → s.tap = .state t →
    s.inputs = netTrace (clkBytes m d) ++ rest →
    run 2 s = .next
      { s with
        so := s.so ++ clkBytes m d
        sig := ⟨true, m, d⟩
        tap := .state (tapNext t m)
        drin := drinAfter t m d s.drin
        irin := irinAfter t m d s.irin
        ev := s.ev ++ transitionEvents t (tapNext t m)
        inputs := rest }

/-- R7: `TAP` starts at RESET, holds one of the 16 states after every step that starts in one, and changes in a started block only
through the update of a WRITE byte on a rising edge. -/
def Obligations.OnlyARisingEdgeMovesTap : Prop :=
  State.reset.tap = .state .reset ∧ State.powerOn.tap = .state .reset ∧
  (∀ s t : State, TapLegal s → step s = .next t → TapLegal t) ∧
  (∀ s t : State, s.serial = .opened → step s = .next t → t.tap ≠ s.tap →
    ∃ (m d : Bool) (u : TapState), nextInput s s.inputs = some (.netByte (writeByte true m d), t.inputs) ∧
      s.conn = .peer ∧ s.sig.clk = false ∧ s.tap = .state u ∧ t.tap = .state (tapNext u m))

/-! ### The commands without signal values -/

/-- R53 to R58 (decision D12): the six side-channel commands forward their byte and report their action; nothing else changes.  The
two members of a reset pair differ only on SO. -/
def Obligations.SideChannelCommandsForwardAndReport : Prop :=
  ∀ s : State, NetReady s →
    exec .blinkOn s = .next { s with so := s.so ++ [0x42#8], ev := s.ev ++ [.indicator true] } ∧
    exec .blinkOff s = .next { s with so := s.so ++ [0x62#8], ev := s.ev ++ [.indicator false] } ∧
    exec .rstR s = .next { s with so := s.so ++ [0x72#8], ev := s.ev ++ [.sysreset true] } ∧
    exec .rstT s = .next { s with so := s.so ++ [0x74#8], ev := s.ev ++ [.sysreset true] } ∧
    exec .rstS s = .next { s with so := s.so ++ [0x73#8], ev := s.ev ++ [.sysreset false] } ∧
    exec .rstU s = .next { s with so := s.so ++ [0x75#8], ev := s.ev ++ [.sysreset false] }

/-- R59 (decision D11): 'R' is forwarded in every state; it is a READ_REQUEST in DRSHIFT and IRSHIFT and READ_OUT_OF_STATE in any
other; nothing else changes. -/
def Obligations.ReadReportsByTheTapState : Prop :=
  ∀ s : State, NetReady s →
    (s.tap = .state .drshift →
      exec .read s = .next { s with so := s.so ++ [0x52#8], ev := s.ev ++ [.readRequest .drshift] }) ∧
    (s.tap = .state .irshift →
      exec .read s = .next { s with so := s.so ++ [0x52#8], ev := s.ev ++ [.readRequest .irshift] }) ∧
    (s.tap ≠ .state .drshift → s.tap ≠ .state .irshift →
      exec .read s = .next { s with so := s.so ++ [0x52#8], ev := s.ev ++ [.readOutOfState s.tap] })

/-- R60: an unknown byte is forwarded unchanged and reported with its value, and nothing else changes. -/
def Obligations.UnknownBytesAreForwardedAndReported : Prop :=
  ∀ (v : Byte) (s : State), NetReady s → (Instr.unknown v).wellFormed = true →
    decodeNet v = .unknown v ∧
    exec (.unknown v) s = .next { s with so := s.so ++ [v], ev := s.ev ++ [.unknownChar v] }

/-- R111 to R114: each of the four anomalies is reported by its own command, exactly on its cause, with what it records; no input
without an instruction reports one. -/
def Obligations.AnomaliesComeOnlyFromTheirCauses : Prop :=
  (∀ (i : Instr) (s t : State), exec i s = .next t → ∃ new, t.ev = s.ev ++ new ∧
    (∀ v, .unknownChar v ∈ new ↔ i = .unknown v) ∧
    (∀ x, .readOutOfState x ∈ new ↔
      i = .read ∧ s.tap ≠ .state .drshift ∧ s.tap ≠ .state .irshift ∧ x = s.tap) ∧
    (∀ a b, .changedOnEdge a b ∈ new ↔ i = .write b.clk b.mode b.data ∧ s.sig.clk = false ∧ b.clk = true ∧
      (b.mode ≠ s.sig.mode ∨ b.data ≠ s.sig.data) ∧ a = s.sig) ∧
    (∀ x, .unexpectedRead x ∈ new ↔
      (∃ v, i = .rdbk v) ∧ s.tap ≠ .state .drshift ∧ s.tap ≠ .state .irshift ∧ x = s.tap)) ∧
  (∀ (j : Input) (s t : State), (∀ b, j ≠ .netByte b) → (∀ v, j ≠ .serByte v) → perform j s = .next t →
    ∀ e ∈ t.ev, e.kindClass = .anomaly → e ∈ s.ev)

/-- The frame of the nine network commands (R61, derived in the spec): none writes DROUT, IROUT, DRSEEN, IRSEEN, CONN, STOPPED, NO
or what the environment holds; only a WRITE byte that makes a rising edge writes TAP, DRIN, IRIN or FATAL; SO gains exactly
the byte and EV only grows. -/
def Obligations.NetworkCommandsLeaveTheRest : Prop :=
  ∀ (i : Instr) (s t : State), i.port = .ni → exec i s = .next t →
    t.drout = s.drout ∧ t.irout = s.irout ∧ t.drseen = s.drseen ∧ t.irseen = s.irseen ∧ t.conn = s.conn ∧
    t.stopped = s.stopped ∧ t.no = s.no ∧ t.serial = s.serial ∧ t.inputs = s.inputs ∧
    t.so = s.so ++ [encodeByte i] ∧ (∃ new, t.ev = s.ev ++ new) ∧
    ((¬ ∃ m d, i = .write true m d ∧ s.sig.clk = false) →
      t.tap = s.tap ∧ t.drin = s.drin ∧ t.irin = s.irin ∧ t.fatal = s.fatal)

/-- The network byte step is the pseudocode of R45 on the decoded action, for every byte (decisions D11, D12, D15). -/
def Obligations.NetworkStepFollowsThePseudocode : Prop :=
  ∀ (b : Byte) (s : State), NetReady s → exec (decodeNet b) s = .next (netStepPseudocode b s)

/-- R46: a step that takes a byte from NI writes it to SO once, unmodified, whatever its class; bytes taken one after another reach
SO in arrival order. -/
def Obligations.EveryNetworkByteIsForwardedOnce : Prop :=
  (∀ (s : State) (b : Byte) (rest : List Input), NetReady s → s.inputs = .netByte b :: rest →
    ∃ t, step s = .next t ∧ t.so = s.so ++ [b] ∧ t.inputs = rest) ∧
  (∀ (s : State) (bs : List Byte) (rest : List Input), NetReady s → TapLegal s → s.inputs = netTrace bs ++ rest →
    ∃ t, run bs.length s = .next t ∧ t.so = s.so ++ bs ∧ t.inputs = rest)

/-- R62 (decision D30): with no peer a network instruction has no step, and a network byte in the trace is never processed: nothing
but the trace changes.  (That the model refuses such an instruction by name is the model's choice, log entry 2; that the byte is removed from the trace,
its reading, log entry 11.) -/
def Obligations.NoPeerNoNetworkStep : Prop :=
  (∀ (i : Instr) (s : State), i.port = .ni → SerReady s → s.conn = .none → exec i s = .refused .noPeer) ∧
  (∀ (s : State) (b : Byte) (rest : List Input), SerReady s → s.conn = .none → s.inputs = .netByte b :: rest →
    step s = .next { s with inputs := rest })

/-! ### RDBK -/

/-- The whole effect of RDBK in every TAP state, connected or not (R90; decisions D10, D16). -/
def Obligations.ReadbackCompletesWithItsWholeEffect : Prop :=
  ∀ (v : Byte) (s : State), SerReady s →
    (s.tap = .state .drshift → exec (.rdbk v) s = .next
      { s with
        drseen := insertSeen v s.drseen
        drout := bprepend s.drout v
        ev := s.ev ++ [.snapshot .dr (bprepend s.drout v) (insertSeen v s.drseen) s.irseen]
        no := s.no ++ if s.conn = .peer then [v] else [] }) ∧
    (s.tap = .state .irshift → exec (.rdbk v) s = .next
      { s with
        irseen := insertSeen v s.irseen
        irout := bprepend s.irout v
        ev := s.ev ++ [.snapshot .ir (bprepend s.irout v) s.drseen (insertSeen v s.irseen)]
        no := s.no ++ if s.conn = .peer then [v] else [] }) ∧
    (s.tap ≠ .state .drshift → s.tap ≠ .state .irshift → exec (.rdbk v) s = .next
      { s with
        ev := s.ev ++ [.unexpectedRead s.tap]
        no := s.no ++ if s.conn = .peer then [v] else [] })

/-- R91 and R92: in DRSHIFT the byte joins DRSEEN and the head of DROUT, bounded, and in IRSHIFT the same of the IR side; the other
side stays. -/
def Obligations.ReadbackIsRecordedInItsDirection : Prop :=
  ∀ (v : Byte) (s : State), SerReady s →
    (s.tap = .state .drshift → ∃ t, exec (.rdbk v) s = .next t ∧ (∀ w, w ∈ t.drseen ↔ w = v ∨ w ∈ s.drseen) ∧
      t.drout = (v :: s.drout).take 80 ∧ t.irout = s.irout ∧ t.irseen = s.irseen) ∧
    (s.tap = .state .irshift → ∃ t, exec (.rdbk v) s = .next t ∧ (∀ w, w ∈ t.irseen ↔ w = v ∨ w ∈ s.irseen) ∧
      t.irout = (v :: s.irout).take 80 ∧ t.drout = s.drout ∧ t.drseen = s.drseen)

/-- R96: the raw byte goes to NO, unmodified, exactly when a peer is connected; without a peer it is dropped, the observation is the
same and no event reports the drop. -/
def Obligations.ReadbackIsForwardedOnlyToAPeer : Prop :=
  ∀ (v : Byte) (s : State), SerReady s → ∃ t, exec (.rdbk v) s = .next t ∧
    (s.conn = .peer → t.no = s.no ++ [v]) ∧ (s.conn = .none → t.no = s.no) ∧
    exec (.rdbk v) { s with conn := .none } = .next { t with conn := .none, no := s.no }

/-- R94: a seen set only grows: adding a value already there leaves it unchanged, the value added is the byte as received, and no
step of a started block removes a value. -/
def Obligations.SeenSetsOnlyGrow : Prop :=
  (∀ (v w : Byte) (l : List Byte), w ∈ insertSeen v l ↔ w = v ∨ w ∈ l) ∧
  (∀ (v : Byte) (l : List Byte), SeenCanonical l → v ∈ l → insertSeen v l = l) ∧
  (∀ s t : State, s.serial = .opened → step s = .next t →
    (∀ w ∈ s.drseen, w ∈ t.drseen) ∧ (∀ w ∈ s.irseen, w ∈ t.irseen))

/-- The frame of RDBK (R21, derived in the spec): it writes no element of the network side, no flag and nothing of the environment, and
only the log and set of the direction `TAP` is in; outside the shift states none. -/
def Obligations.ReadbackLeavesTheRest : Prop :=
  ∀ (v : Byte) (s t : State), exec (.rdbk v) s = .next t →
    t.netView = s.netView ∧ t.inputs = s.inputs ∧ (∃ new, t.ev = s.ev ++ new) ∧
    (s.tap ≠ .state .drshift → t.drout = s.drout ∧ t.drseen = s.drseen) ∧
    (s.tap ≠ .state .irshift → t.irout = s.irout ∧ t.irseen = s.irseen)

/-! ### Connection, start and stop -/

/-- R99 (decision D18): with no peer an ACCEPT installs one; nothing else changes and no event is emitted. -/
def Obligations.AcceptInstallsThePeer : Prop :=
  ∀ (s : State) (rest : List Input), SerReady s → s.conn = .none → s.inputs = .accept :: rest →
    step s = .next { s with conn := .peer, inputs := rest }

/-- R102: a CLOSE clears the slot and reports the disconnection, whatever its cause, and writes nothing else; after it, until an
ACCEPT comes, whatever the inputs, no network byte is processed (SO stays, and so do TAP, SIG and the DR-in and IR-in logs) and
no readback byte is forwarded (NO stays), though readback bytes are still observed.  That the step on a network byte without a
peer removes it from the trace is the model's reading of R62 and R108 (log entry 11, DEDUCED). -/
def Obligations.CloseClearsTheSlot : Prop :=
  ∀ (s : State) (c : CloseCause) (rest : List Input), NetReady s → s.inputs = .close c :: rest →
    ∃ t, step s = .next t ∧ t = { s with conn := .none, ev := s.ev ++ [.disconnected], inputs := rest } ∧
      (∀ (n : Nat) (u : State), .accept ∉ rest → run n t = .next u →
        u.so = t.so ∧ u.no = t.no ∧ u.conn = .none ∧
        u.tap = t.tap ∧ u.sig = t.sig ∧ u.drin = t.drin ∧ u.irin = t.irin) ∧
      (∀ (b : Byte) (later : List Input), rest = .netByte b :: later → step t = .next { t with inputs := later }) ∧
      (∀ (v : Byte) (later : List Input), rest = .serByte v :: later →
        ∃ u, step t = .next u ∧ u.no = t.no ∧ u.conn = .none)

/-- R103 (that SIG persists too is decision D17): a disconnect and a later accept reset nothing but CONN: after both, every element
is as before but for the event of the disconnection. -/
def Obligations.ReconnectResetsNothing : Prop :=
  ∀ (s : State) (c : CloseCause) (rest : List Input), NetReady s → s.inputs = .close c :: .accept :: rest →
    run 2 s = .next { s with ev := s.ev ++ [.disconnected], inputs := rest }

/-- R15: the slot holds at most one peer, starts empty, is set only by ACCEPT with no peer there, and is cleared only by a CLOSE (or a
serial error, if the policy handles one as a CLOSE, R107). -/
def Obligations.SlotIsSetOnAcceptAndClearedOnClose : Prop :=
  State.reset.conn = .none ∧
  (∀ s t : State, s.serial = .opened → step s = .next t → s.conn = .none → t.conn = .peer →
    nextInput s s.inputs = some (.accept, t.inputs)) ∧
  (∀ s t : State, s.serial = .opened → step s = .next t → s.conn = .peer → t.conn = .none →
    (∃ c, nextInput s s.inputs = some (.close c, t.inputs)) ∨
    (nextInput s s.inputs = some (.serialError, t.inputs) ∧ Config.serialErrorPolicy = .closePeer))

/-- R106 (decision D20): STOP, taken in a started block in any TAP state, connected or not, sets STOPPED and nothing else; after it no step,
whatever bytes are left, and the process has exited with status 0, the serial transport released and the socket closed.  FATAL is
left free: that STOP is taken after the fatal error too, with exit status 0, is the model's reading of "in any state" (log entry
10, DEDUCED).  STOP before the start is StopBeforeTheStartEndsTheProcess. -/
def Obligations.StopEndsEveryStep : Prop :=
  ∀ (s : State) (rest : List Input), s.serial = .opened → s.stopped = false → s.inputs = .stop :: rest →
    ∃ t, step s = .next t ∧ t = { s with stopped := true, inputs := rest } ∧
      step t = .fault .stopped ∧ (∀ i, exec i t = .fault .stopped) ∧
      t.exitStatus = some 0 ∧ t.holdsSerial = false ∧ t.holdsSocket = false

/-- STOP before the start (R106, "in any state"; that this includes the time before the serial transport is open is the model's reading,
log entry 10, DEDUCED): wherever STOP stands among agent inputs that wait, it is taken, sets STOPPED and nothing else; after it
the outcome of the open and every other input is left untouched, and the process has exited with status 0, holding nothing. -/
def Obligations.StopBeforeTheStartEndsTheProcess : Prop :=
  ∀ (s : State) (waiting rest : List Input), s.serial = .unopened → s.stopped = false →
    (∀ i ∈ waiting, i.agent ≠ .environment) → s.inputs = waiting ++ .stop :: rest →
    ∃ t, step s = .next t ∧ t = { s with stopped := true, inputs := waiting ++ rest } ∧
      step t = .fault .stopped ∧ (∀ i, exec i t = .fault .stopped) ∧
      t.exitStatus = some 0 ∧ t.holdsSerial = false ∧ t.holdsSocket = false

/-- R105: the block starts only after the serial transport has been opened: before, no instruction has a step; when the open fails no step
of either agent ever occurs, nothing is written, and the process has exited with status 1.  That an agent's input which arrives
before the open waits, rather than is lost, is the model's reading (log entry 8, DEDUCED). -/
def Obligations.FailedOpenIsFatalAtStartup : Prop :=
  (∀ (i : Instr) (s : State), s.serial = .unopened → ∀ t, exec i s ≠ .next t) ∧
  (∀ (i : Input) (s : State), s.serial = .unopened → s.stopped = false → i.agent ≠ .environment → s.admits i = .wait) ∧
  (∀ rest : List Input, ∃ t, step { State.powerOn with inputs := .openResult false :: rest } = .next t ∧
    t = { State.powerOn with serial := .openFailed, inputs := rest } ∧
    step t = .fault .serialOpenFailed ∧ (∀ i, exec i t = .fault .serialOpenFailed) ∧ t.exitStatus = some 1)

/-- R125, R127, R128 (the reset values beyond TAP and CONN are decisions D4, D5, D19, D20; log entry 5): a successful open gives the
session-start state with the inputs still to come; there, a serial byte before any peer is reported as unexpected in RESET and
dropped. -/
def Obligations.OpenGivesTheSessionStart : Prop :=
  (∀ rest : List Input, step { State.powerOn with inputs := .openResult true :: rest } =
    .next { State.reset with inputs := rest }) ∧
  (∀ v : Byte, step (State.reset.arrive (.serByte v)) =
    .next { State.reset with ev := [.unexpectedRead (.state .reset)] })

/-- R107 (decision D28, OPEN): a serial error in a started block is handled by the one policy of the block: nothing, or as CLOSE when a
peer is connected, or as STOP; the statement holds for every policy.  One policy for all errors, the error as a step of its own, and
no effect of close_peer without a peer are the model's choices (log entry 6). -/
def Obligations.SerialErrorFollowsThePolicy : Prop :=
  ∀ (s : State) (rest : List Input), SerReady s → s.inputs = .serialError :: rest →
    (Config.serialErrorPolicy = .ignore → step s = .next { s with inputs := rest }) ∧
    (Config.serialErrorPolicy = .closePeer → s.conn = .peer →
      step s = .next { s with conn := .none, ev := s.ev ++ [.disconnected], inputs := rest }) ∧
    (Config.serialErrorPolicy = .closePeer → s.conn = .none → step s = .next { s with inputs := rest }) ∧
    (Config.serialErrorPolicy = .stop → step s = .next { s with stopped := true, inputs := rest })

/-! ### Invariants and whole-machine rules -/

/-- The session-start state meets the invariants. -/
def Obligations.SessionStartMeetsTheInvariants : Prop :=
  SessionInv State.reset ∧ SessionInv State.powerOn ∧ EventsTrackTap State.reset ∧ EventsTrackTap State.powerOn

/-- R2: LOG_BOUND is 80, and no log ever holds more: true at session start and kept by every step from every state. -/
def Obligations.LogsNeverExceedTheBound : Prop :=
  Config.logBound = 80 ∧ LogsBounded State.reset ∧ LogsBounded State.powerOn ∧
  (∀ s t : State, LogsBounded s → step s = .next t → LogsBounded t)

/-- Every step keeps the session invariant: `TAP` stays one of the 16 states and FATAL stays clear (vector FT2), the logs stay bounded,
the seen sets canonical and complete for their logs, a peer only in a started block. -/
def Obligations.StepKeepsTheSessionInvariant : Prop :=
  ∀ s t : State, SessionInv s → step s = .next t → SessionInv t

/-- Every step keeps the event stream telling the TAP state: the TRANSITION records are one path of the table from RESET to `TAP`
(R63, R70). -/
def Obligations.EventStreamAlwaysTellsTheTapState : Prop :=
  ∀ s t : State, EventsTrackTap s → step s = .next t → EventsTrackTap t

/-- In every state a session can reach, under any inputs at any time in any interleaving, the invariants hold, so the fatal error has
not happened (R115: "cannot occur"), and the TRANSITION records tell `TAP`. -/
def Obligations.EveryReachableSessionIsSafe : Prop :=
  ∀ s : State, Reachable s → SessionInv s ∧ EventsTrackTap s

/-- R19: SO, NO and EV are empty at session start; a step of a started block appends to them and never reads or removes: older contents
before them stay as they are and change nothing else of the step. -/
def Obligations.OutputsAreAppendedAndNeverRead : Prop :=
  State.reset.so = [] ∧ State.reset.no = [] ∧ State.reset.ev = [] ∧
  (∀ s t : State, s.serial = .opened → step s = .next t →
    (∃ so no ev, t.so = s.so ++ so ∧ t.no = s.no ++ no ∧ t.ev = s.ev ++ ev)) ∧
  (∀ (s : State) (so no : List Byte) (ev : List Event), s.serial = .opened →
    step (withOlderOutputs so no ev s) = mapNext (withOlderOutputs so no ev) (step s))

/-! ### The two agents -/

/-- R26 and R29 (decisions D2, D3): whatever the interleaving of network and serial bytes, a connected block forwards every network byte
to SO and every serial byte to NO, each direction in its own order, losing, doubling and altering none. -/
def Obligations.EveryInterleavingForwardsInOrder : Prop :=
  ∀ (tr : List Input) (s : State), NetReady s → TapLegal s → bytesOnly tr = true → s.inputs = tr →
    ∃ t, run tr.length s = .next t ∧
      t.so = s.so ++ netBytesOf tr ∧ t.no = s.no ++ serBytesOf tr ∧ t.inputs = []

/-- R21 and R123 (R21 is derived in the spec): the serial side never influences the network side.  Two connected blocks that agree on
the network side, run on two traces with the same network bytes and any serial bytes in any interleaving, agree on it at the end. -/
def Obligations.SerialSideNeverInfluencesTheNetworkSide : Prop :=
  ∀ (tr₁ tr₂ : List Input) (s₁ s₂ : State), NetReady s₁ → TapLegal s₁ → s₁.netView = s₂.netView →
    bytesOnly tr₁ = true → bytesOnly tr₂ = true → netBytesOf tr₁ = netBytesOf tr₂ →
    s₁.inputs = tr₁ → s₂.inputs = tr₂ →
    ∃ t₁ t₂, run tr₁.length s₁ = .next t₁ ∧
      run tr₂.length s₂ = .next t₂ ∧ t₁.netView = t₂.netView

/-- R131 (derived in the spec): the readback race.  In DRSHIFT a serial byte taken before an edge with m = 1 is recorded in DROUT, and the
same byte taken after it is not: it is reported as unexpected in DREXIT1. -/
def Obligations.ReadbackRaceDependsOnTheOrder : Prop :=
  ∀ (s : State) (d : Bool) (v : Byte) (rest : List Input), NetReady s → s.tap = .state .drshift → s.sig.clk = false →
    (s.inputs = .serByte v :: .netByte (writeByte true true d) :: rest →
      ∃ t, run 2 s = .next t ∧ t.drout = bprepend s.drout v ∧ t.tap = .state .drexit1) ∧
    (s.inputs = .netByte (writeByte true true d) :: .serByte v :: rest →
      ∃ t, run 2 s = .next t ∧ t.drout = s.drout ∧ t.tap = .state .drexit1 ∧
        .unexpectedRead (.state .drexit1) ∈ t.ev)

/-- The other side of R131: a network byte that does not move `TAP` and a serial byte may be taken in either order; only the order of
their events differs. -/
def Obligations.OrdersAgreeWhenTapStays : Prop :=
  ∀ (s : State) (b v : Byte) (t : State), NetReady s → TapLegal s → exec (decodeNet b) s = .next t → t.tap = s.tap →
    ∃ u₁ u₂,
      run 2 { s with inputs := [.netByte b, .serByte v] } = .next u₁ ∧
      run 2 { s with inputs := [.serByte v, .netByte b] } = .next u₂ ∧
      { u₁ with ev := [] } = { u₂ with ev := [] } ∧ u₁.ev.Perm u₂.ev
end

