-- ==== Sys2Proof/Laws/Decode.lean ====
section
/-! SUPPORT. The bytes of the encoding tables, read by the decoder. -/

namespace Sys2Proof

/-- A WRITE byte, written out by R35, decodes to its three levels. -/
@[simp] theorem decodeNet_writeByte (c m d : Bool) : decodeNet (writeByte c m d) = .write c m d := by
  cases c <;> cases m <;> cases d <;> decide

/-- A network byte of the remainder decodes to UNKNOWN with its value (R37). -/
theorem decodeNet_unknown {v : Byte} (h : (Instr.unknown v).wellFormed = true) : decodeNet v = .unknown v := by
  simp only [Instr.wellFormed, isFixedByte, Bool.and_eq_true, Bool.not_eq_true', Bool.or_eq_false_iff] at h
  simp [decodeNet, h]

theorem decodeNet_port (b : Byte) : (decodeNet b).port = .ni := by
  unfold decodeNet
  repeat' split
  all_goals rfl

@[simp] theorem decode_cons (p : Port) (b : Byte) (rest : List Byte) :
    decode p (b :: rest) = .instr (decodeByte p b) rest := rfl

end Sys2Proof
end

