-- ==== Sys2Proof/Laws/State.lean ====
section
/-! SUPPORT. What each named update of the state does to each field: one lemma per field per update, true by rfl. -/

namespace Sys2Proof.Machine

variable (s : State)

/-! ### State.sendSo -/

@[simp] theorem State.sendSo_tap (b : Byte) : (s.sendSo b).tap = s.tap := rfl
@[simp] theorem State.sendSo_sig (b : Byte) : (s.sendSo b).sig = s.sig := rfl
@[simp] theorem State.sendSo_drin (b : Byte) : (s.sendSo b).drin = s.drin := rfl
@[simp] theorem State.sendSo_irin (b : Byte) : (s.sendSo b).irin = s.irin := rfl
@[simp] theorem State.sendSo_drout (b : Byte) : (s.sendSo b).drout = s.drout := rfl
@[simp] theorem State.sendSo_irout (b : Byte) : (s.sendSo b).irout = s.irout := rfl
@[simp] theorem State.sendSo_drseen (b : Byte) : (s.sendSo b).drseen = s.drseen := rfl
@[simp] theorem State.sendSo_irseen (b : Byte) : (s.sendSo b).irseen = s.irseen := rfl
@[simp] theorem State.sendSo_conn (b : Byte) : (s.sendSo b).conn = s.conn := rfl
@[simp] theorem State.sendSo_fatal (b : Byte) : (s.sendSo b).fatal = s.fatal := rfl
@[simp] theorem State.sendSo_stopped (b : Byte) : (s.sendSo b).stopped = s.stopped := rfl
@[simp] theorem State.sendSo_so (b : Byte) : (s.sendSo b).so = s.so ++ [b] := rfl
@[simp] theorem State.sendSo_no (b : Byte) : (s.sendSo b).no = s.no := rfl
@[simp] theorem State.sendSo_ev (b : Byte) : (s.sendSo b).ev = s.ev := rfl
@[simp] theorem State.sendSo_serial (b : Byte) : (s.sendSo b).serial = s.serial := rfl
@[simp] theorem State.sendSo_inputs (b : Byte) : (s.sendSo b).inputs = s.inputs := rfl

/-! ### State.sendNo -/

@[simp] theorem State.sendNo_tap (v : Byte) : (s.sendNo v).tap = s.tap := rfl
@[simp] theorem State.sendNo_sig (v : Byte) : (s.sendNo v).sig = s.sig := rfl
@[simp] theorem State.sendNo_drin (v : Byte) : (s.sendNo v).drin = s.drin := rfl
@[simp] theorem State.sendNo_irin (v : Byte) : (s.sendNo v).irin = s.irin := rfl
@[simp] theorem State.sendNo_drout (v : Byte) : (s.sendNo v).drout = s.drout := rfl
@[simp] theorem State.sendNo_irout (v : Byte) : (s.sendNo v).irout = s.irout := rfl
@[simp] theorem State.sendNo_drseen (v : Byte) : (s.sendNo v).drseen = s.drseen := rfl
@[simp] theorem State.sendNo_irseen (v : Byte) : (s.sendNo v).irseen = s.irseen := rfl
@[simp] theorem State.sendNo_conn (v : Byte) : (s.sendNo v).conn = s.conn := rfl
@[simp] theorem State.sendNo_fatal (v : Byte) : (s.sendNo v).fatal = s.fatal := rfl
@[simp] theorem State.sendNo_stopped (v : Byte) : (s.sendNo v).stopped = s.stopped := rfl
@[simp] theorem State.sendNo_so (v : Byte) : (s.sendNo v).so = s.so := rfl
@[simp] theorem State.sendNo_no (v : Byte) : (s.sendNo v).no = s.no ++ [v] := rfl
@[simp] theorem State.sendNo_ev (v : Byte) : (s.sendNo v).ev = s.ev := rfl
@[simp] theorem State.sendNo_serial (v : Byte) : (s.sendNo v).serial = s.serial := rfl
@[simp] theorem State.sendNo_inputs (v : Byte) : (s.sendNo v).inputs = s.inputs := rfl

/-! ### State.emit -/

@[simp] theorem State.emit_tap (e : Event) : (s.emit e).tap = s.tap := rfl
@[simp] theorem State.emit_sig (e : Event) : (s.emit e).sig = s.sig := rfl
@[simp] theorem State.emit_drin (e : Event) : (s.emit e).drin = s.drin := rfl
@[simp] theorem State.emit_irin (e : Event) : (s.emit e).irin = s.irin := rfl
@[simp] theorem State.emit_drout (e : Event) : (s.emit e).drout = s.drout := rfl
@[simp] theorem State.emit_irout (e : Event) : (s.emit e).irout = s.irout := rfl
@[simp] theorem State.emit_drseen (e : Event) : (s.emit e).drseen = s.drseen := rfl
@[simp] theorem State.emit_irseen (e : Event) : (s.emit e).irseen = s.irseen := rfl
@[simp] theorem State.emit_conn (e : Event) : (s.emit e).conn = s.conn := rfl
@[simp] theorem State.emit_fatal (e : Event) : (s.emit e).fatal = s.fatal := rfl
@[simp] theorem State.emit_stopped (e : Event) : (s.emit e).stopped = s.stopped := rfl
@[simp] theorem State.emit_so (e : Event) : (s.emit e).so = s.so := rfl
@[simp] theorem State.emit_no (e : Event) : (s.emit e).no = s.no := rfl
@[simp] theorem State.emit_ev (e : Event) : (s.emit e).ev = s.ev ++ [e] := rfl
@[simp] theorem State.emit_serial (e : Event) : (s.emit e).serial = s.serial := rfl
@[simp] theorem State.emit_inputs (e : Event) : (s.emit e).inputs = s.inputs := rfl

/-! ### State.arrive -/

@[simp] theorem State.arrive_tap (i : Input) : (s.arrive i).tap = s.tap := rfl
@[simp] theorem State.arrive_sig (i : Input) : (s.arrive i).sig = s.sig := rfl
@[simp] theorem State.arrive_drin (i : Input) : (s.arrive i).drin = s.drin := rfl
@[simp] theorem State.arrive_irin (i : Input) : (s.arrive i).irin = s.irin := rfl
@[simp] theorem State.arrive_drout (i : Input) : (s.arrive i).drout = s.drout := rfl
@[simp] theorem State.arrive_irout (i : Input) : (s.arrive i).irout = s.irout := rfl
@[simp] theorem State.arrive_drseen (i : Input) : (s.arrive i).drseen = s.drseen := rfl
@[simp] theorem State.arrive_irseen (i : Input) : (s.arrive i).irseen = s.irseen := rfl
@[simp] theorem State.arrive_conn (i : Input) : (s.arrive i).conn = s.conn := rfl
@[simp] theorem State.arrive_fatal (i : Input) : (s.arrive i).fatal = s.fatal := rfl
@[simp] theorem State.arrive_stopped (i : Input) : (s.arrive i).stopped = s.stopped := rfl
@[simp] theorem State.arrive_so (i : Input) : (s.arrive i).so = s.so := rfl
@[simp] theorem State.arrive_no (i : Input) : (s.arrive i).no = s.no := rfl
@[simp] theorem State.arrive_ev (i : Input) : (s.arrive i).ev = s.ev := rfl
@[simp] theorem State.arrive_serial (i : Input) : (s.arrive i).serial = s.serial := rfl
@[simp] theorem State.arrive_inputs (i : Input) : (s.arrive i).inputs = s.inputs ++ [i] := rfl

/-! ### State.raiseFatal -/

@[simp] theorem State.raiseFatal_tap : (s.raiseFatal).tap = s.tap := rfl
@[simp] theorem State.raiseFatal_sig : (s.raiseFatal).sig = s.sig := rfl
@[simp] theorem State.raiseFatal_drin : (s.raiseFatal).drin = s.drin := rfl
@[simp] theorem State.raiseFatal_irin : (s.raiseFatal).irin = s.irin := rfl
@[simp] theorem State.raiseFatal_drout : (s.raiseFatal).drout = s.drout := rfl
@[simp] theorem State.raiseFatal_irout : (s.raiseFatal).irout = s.irout := rfl
@[simp] theorem State.raiseFatal_drseen : (s.raiseFatal).drseen = s.drseen := rfl
@[simp] theorem State.raiseFatal_irseen : (s.raiseFatal).irseen = s.irseen := rfl
@[simp] theorem State.raiseFatal_conn : (s.raiseFatal).conn = s.conn := rfl
@[simp] theorem State.raiseFatal_fatal : (s.raiseFatal).fatal = true := rfl
@[simp] theorem State.raiseFatal_stopped : (s.raiseFatal).stopped = s.stopped := rfl
@[simp] theorem State.raiseFatal_so : (s.raiseFatal).so = s.so := rfl
@[simp] theorem State.raiseFatal_no : (s.raiseFatal).no = s.no := rfl
@[simp] theorem State.raiseFatal_ev : (s.raiseFatal).ev = s.ev ++ [.fatalInternal s.tap] := rfl
@[simp] theorem State.raiseFatal_serial : (s.raiseFatal).serial = s.serial := rfl
@[simp] theorem State.raiseFatal_inputs : (s.raiseFatal).inputs = s.inputs := rfl

/-! ### acceptStep -/

@[simp] theorem acceptStep_tap : (acceptStep s).tap = s.tap := rfl
@[simp] theorem acceptStep_sig : (acceptStep s).sig = s.sig := rfl
@[simp] theorem acceptStep_drin : (acceptStep s).drin = s.drin := rfl
@[simp] theorem acceptStep_irin : (acceptStep s).irin = s.irin := rfl
@[simp] theorem acceptStep_drout : (acceptStep s).drout = s.drout := rfl
@[simp] theorem acceptStep_irout : (acceptStep s).irout = s.irout := rfl
@[simp] theorem acceptStep_drseen : (acceptStep s).drseen = s.drseen := rfl
@[simp] theorem acceptStep_irseen : (acceptStep s).irseen = s.irseen := rfl
@[simp] theorem acceptStep_conn : (acceptStep s).conn = .peer := rfl
@[simp] theorem acceptStep_fatal : (acceptStep s).fatal = s.fatal := rfl
@[simp] theorem acceptStep_stopped : (acceptStep s).stopped = s.stopped := rfl
@[simp] theorem acceptStep_so : (acceptStep s).so = s.so := rfl
@[simp] theorem acceptStep_no : (acceptStep s).no = s.no := rfl
@[simp] theorem acceptStep_ev : (acceptStep s).ev = s.ev := rfl
@[simp] theorem acceptStep_serial : (acceptStep s).serial = s.serial := rfl
@[simp] theorem acceptStep_inputs : (acceptStep s).inputs = s.inputs := rfl

/-! ### closeStep -/

@[simp] theorem closeStep_tap : (closeStep s).tap = s.tap := rfl
@[simp] theorem closeStep_sig : (closeStep s).sig = s.sig := rfl
@[simp] theorem closeStep_drin : (closeStep s).drin = s.drin := rfl
@[simp] theorem closeStep_irin : (closeStep s).irin = s.irin := rfl
@[simp] theorem closeStep_drout : (closeStep s).drout = s.drout := rfl
@[simp] theorem closeStep_irout : (closeStep s).irout = s.irout := rfl
@[simp] theorem closeStep_drseen : (closeStep s).drseen = s.drseen := rfl
@[simp] theorem closeStep_irseen : (closeStep s).irseen = s.irseen := rfl
@[simp] theorem closeStep_conn : (closeStep s).conn = .none := rfl
@[simp] theorem closeStep_fatal : (closeStep s).fatal = s.fatal := rfl
@[simp] theorem closeStep_stopped : (closeStep s).stopped = s.stopped := rfl
@[simp] theorem closeStep_so : (closeStep s).so = s.so := rfl
@[simp] theorem closeStep_no : (closeStep s).no = s.no := rfl
@[simp] theorem closeStep_ev : (closeStep s).ev = s.ev ++ [.disconnected] := rfl
@[simp] theorem closeStep_serial : (closeStep s).serial = s.serial := rfl
@[simp] theorem closeStep_inputs : (closeStep s).inputs = s.inputs := rfl

/-! ### stopStep -/

@[simp] theorem stopStep_tap : (stopStep s).tap = s.tap := rfl
@[simp] theorem stopStep_sig : (stopStep s).sig = s.sig := rfl
@[simp] theorem stopStep_drin : (stopStep s).drin = s.drin := rfl
@[simp] theorem stopStep_irin : (stopStep s).irin = s.irin := rfl
@[simp] theorem stopStep_drout : (stopStep s).drout = s.drout := rfl
@[simp] theorem stopStep_irout : (stopStep s).irout = s.irout := rfl
@[simp] theorem stopStep_drseen : (stopStep s).drseen = s.drseen := rfl
@[simp] theorem stopStep_irseen : (stopStep s).irseen = s.irseen := rfl
@[simp] theorem stopStep_conn : (stopStep s).conn = s.conn := rfl
@[simp] theorem stopStep_fatal : (stopStep s).fatal = s.fatal := rfl
@[simp] theorem stopStep_stopped : (stopStep s).stopped = true := rfl
@[simp] theorem stopStep_so : (stopStep s).so = s.so := rfl
@[simp] theorem stopStep_no : (stopStep s).no = s.no := rfl
@[simp] theorem stopStep_ev : (stopStep s).ev = s.ev := rfl
@[simp] theorem stopStep_serial : (stopStep s).serial = s.serial := rfl
@[simp] theorem stopStep_inputs : (stopStep s).inputs = s.inputs := rfl

end Sys2Proof.Machine
end

