-- ==== Sys2Proof/Laws/Ops.lean ====
section
/-! SUPPORT. One spec lemma for each shared operation: the bounded logs, the seen sets, the conditions of a step, the frames of
the two byte steps. -/

namespace Sys2Proof.Machine

/-! ### Bounded logs -/

theorem takeLast_length {α : Type} (n : Nat) (l : List α) : (takeLast n l).length = min n l.length := by
  simp [takeLast]; omega

theorem takeLast_of_length_le {α : Type} {n : Nat} {l : List α} (h : l.length ≤ n) : takeLast n l = l := by
  simp [takeLast, Nat.sub_eq_zero_of_le h]

theorem bappend_length {α : Type} (l : List α) (x : α) :
    (bappend l x).length = min Config.logBound (l.length + 1) := by
  simp [bappend, takeLast_length, Config.logBound]; omega

theorem bappend_length_le {α : Type} (l : List α) (x : α) : (bappend l x).length ≤ Config.logBound := by
  rw [bappend_length]; exact Nat.min_le_left _ _

/-- Below the bound an append drops nothing. -/
theorem bappend_of_lt {α : Type} {l : List α} (x : α) (h : l.length < Config.logBound) :
    bappend l x = l ++ [x] := by
  rw [bappend, takeLast_of_length_le (by simp only [Config.logBound] at *; omega)]

/-- At the bound an append drops exactly the head. -/
theorem bappend_of_full {α : Type} {l : List α} (x : α) (h : l.length = Config.logBound) :
    bappend l x = l.tail ++ [x] := by
  simp [bappend, takeLast, h, Config.logBound]

theorem bprepend_length_le {α : Type} (l : List α) (x : α) : (bprepend l x).length ≤ Config.logBound := by
  simp only [bprepend, List.length_take]; exact Nat.min_le_left _ _

/-- Below the bound a prepend drops nothing. -/
theorem bprepend_of_lt {α : Type} {l : List α} (x : α) (h : l.length < Config.logBound) :
    bprepend l x = x :: l := by
  simp only [bprepend]; exact List.take_of_length_le (by simp; omega)

theorem mem_bprepend {α : Type} {l : List α} {x y : α} (h : y ∈ bprepend l x) : y = x ∨ y ∈ l := by
  simpa using List.mem_of_mem_take h

/-! ### Seen sets -/

theorem mem_insertSeen {v w : Byte} {l : List Byte} : w ∈ insertSeen v l ↔ w = v ∨ w ∈ l := by
  induction l with
  | nil => simp [insertSeen]
  | cons x r ih =>
    simp only [insertSeen]
    split
    · simp
    · split
      · rename_i h; subst h; simp
      · simp only [List.mem_cons, ih]; tauto

theorem seenCanonical_insertSeen {v : Byte} {l : List Byte} (h : SeenCanonical l) :
    SeenCanonical (insertSeen v l) := by
  induction l with
  | nil => simp [insertSeen]
  | cons x r ih =>
    obtain ⟨hx, hr⟩ := List.pairwise_cons.mp h
    simp only [insertSeen]
    split
    · rename_i hlt
      refine List.pairwise_cons.mpr ⟨?_, h⟩
      intro y hy
      rcases List.mem_cons.mp hy with rfl | hy
      · exact hlt
      · exact Nat.lt_trans hlt (hx y hy)
    · split
      · exact h
      · rename_i hge hne
        refine List.pairwise_cons.mpr ⟨?_, ih hr⟩
        intro y hy
        rcases mem_insertSeen.mp hy with rfl | hy
        · have : y.toNat ≠ x.toNat := fun he => hne (BitVec.eq_of_toNat_eq he)
          omega
        · exact hx y hy

/-! ### When an agent may step -/

@[simp] theorem haltReason_of_serReady {s : State} (h : SerReady s) : s.haltReason = none := by
  obtain ⟨hf, hs, ho⟩ := h
  simp [State.haltReason, hf, hs, ho]

theorem serReady_iff_haltReason {s : State} : s.haltReason = none ↔ SerReady s := by
  refine ⟨fun h => ?_, haltReason_of_serReady⟩
  unfold State.haltReason at h
  cases hst : s.stopped <;> cases hf : s.fatal <;> cases ho : s.serial <;>
    simp_all [SerReady]

theorem shiftState?_eq_none {t : TapReg} :
    t.shiftState? = none ↔ t ≠ .state .drshift ∧ t ≠ .state .irshift := by
  rcases t with t | k
  · cases t <;> simp [TapReg.shiftState?]
  · simp [TapReg.shiftState?]

/-- The frame of a network byte step, where A_NET may take the byte. -/
theorem netStep_of_ready {b : Byte} {body : State → State} {s : State} (h : NetReady s) :
    netStep b body s = .next (body (s.sendSo b)) := by
  simp [netStep, haltReason_of_serReady h.2, h.1]

/-- All a network byte step can do when it answers a next state. -/
theorem netStep_cases {b : Byte} {body : State → State} {s t : State} (h : netStep b body s = .next t) :
    NetReady s ∧ t = body (s.sendSo b) := by
  unfold netStep at h
  split at h
  · cases h
  · rename_i hh
    split at h
    · rename_i hc
      cases h
      exact ⟨⟨hc, serReady_iff_haltReason.mp hh⟩, rfl⟩
    · cases h

/-- The frame of the serial byte step, where A_SER may take the byte. -/
theorem serStep_of_ready {body : State → State} {s : State} (h : SerReady s) :
    serStep body s = .next (body s) := by
  simp [serStep, haltReason_of_serReady h]

/-- All a serial byte step can do when it answers a next state. -/
theorem serStep_cases {body : State → State} {s t : State} (h : serStep body s = .next t) :
    SerReady s ∧ t = body s := by
  unfold serStep at h
  split at h
  · cases h
  · rename_i hh
    cases h
    exact ⟨serReady_iff_haltReason.mp hh, rfl⟩

end Sys2Proof.Machine
end

