-- ==== Sys2Proof/Laws/PerInstr.lean ====
section
/-! SUPPORT. The statements made per instruction: family OneByte, every command is exactly one byte of its port (R33, R39). -/

namespace Sys2Proof.Laws.OneByte

/-- Whatever bytes stand after it, the encoding of the instruction is read back from its port as one instruction of one
byte (R33). -/
def Statement (i : Instr) : Prop :=
  (encode i).length = 1 ∧ ∀ rest, ∃ j, decode i.port (encode i ++ rest) = .instr j rest

theorem write (c m d : Bool) : Statement (.write c m d) := ⟨rfl, fun _ => ⟨_, rfl⟩⟩
theorem blinkOn : Statement .blinkOn := ⟨rfl, fun _ => ⟨_, rfl⟩⟩
theorem blinkOff : Statement .blinkOff := ⟨rfl, fun _ => ⟨_, rfl⟩⟩
theorem rstR : Statement .rstR := ⟨rfl, fun _ => ⟨_, rfl⟩⟩
theorem rstT : Statement .rstT := ⟨rfl, fun _ => ⟨_, rfl⟩⟩
theorem rstS : Statement .rstS := ⟨rfl, fun _ => ⟨_, rfl⟩⟩
theorem rstU : Statement .rstU := ⟨rfl, fun _ => ⟨_, rfl⟩⟩
theorem read : Statement .read := ⟨rfl, fun _ => ⟨_, rfl⟩⟩
theorem unknown (v : Byte) : Statement (.unknown v) := ⟨rfl, fun _ => ⟨_, rfl⟩⟩
theorem rdbk (v : Byte) : Statement (.rdbk v) := ⟨rfl, fun _ => ⟨_, rfl⟩⟩

end Sys2Proof.Laws.OneByte
end

