-- ==== Sys2Proof/Laws/Tap.lean ====
section
/-! SUPPORT. What the TAP update and the SIGNAL arm of WRITE do. -/

namespace Sys2Proof.Machine

theorem drinAfter_length_le {t : TapState} {m d : Bool} {l : List ShiftChar} (h : l.length ≤ Config.logBound) :
    (drinAfter t m d l).length ≤ Config.logBound := by
  unfold drinAfter appendSeparator appendBit
  split <;> [exact bappend_length_le _ _; (split <;> [exact bappend_length_le _ _; exact h])]

theorem irinAfter_length_le {t : TapState} {m d : Bool} {l : List ShiftChar} (h : l.length ≤ Config.logBound) :
    (irinAfter t m d l).length ≤ Config.logBound := by
  unfold irinAfter appendSeparator appendBit
  split <;> [exact bappend_length_le _ _; (split <;> [exact bappend_length_le _ _; exact h])]

/-- The update from one of the 16 states, field by field. -/
theorem tapUpdate_state {t : TapState} {m d : Bool} {s : State} (h : s.tap = .state t) :
    tapUpdate m d s =
      { s with
        drin := drinAfter t m d s.drin
        irin := irinAfter t m d s.irin
        tap := .state (tapNext t m)
        ev := s.ev ++ transitionEvents t (tapNext t m) } := by
  simp [tapUpdate, h]

/-- The update from a value that is no state raises the fatal error and writes nothing else. -/
theorem tapUpdate_outside {k : Nat} {m d : Bool} {s : State} (h : s.tap = .outside k) :
    tapUpdate m d s = s.raiseFatal := by
  simp [tapUpdate, h]

/-- The SIGNAL arm without a rising edge stores the triple and does nothing else. -/
theorem signalArm_noEdge {new : Sig} {s : State} (hf : s.fatal = false) (he : risingEdge s.sig new = false) :
    signalArm new s = { s with sig := new } := by
  simp [signalArm, he, storeSig, hf]

/-- The SIGNAL arm on a rising edge from one of the 16 states. -/
theorem signalArm_edge {new : Sig} {s : State} {t : TapState} (hf : s.fatal = false)
    (he : risingEdge s.sig new = true) (ht : s.tap = .state t) :
    signalArm new s =
      { s with
        sig := new
        drin := drinAfter t new.mode new.data s.drin
        irin := irinAfter t new.mode new.data s.irin
        tap := .state (tapNext t new.mode)
        ev := s.ev ++ changeReport s.sig new ++
          transitionEvents t (tapNext t new.mode) } := by
  simp only [signalArm, he, if_true, reportChange]
  rw [tapUpdate_state (by exact ht)]
  simp [storeSig, hf]

/-- The SIGNAL arm on a rising edge from a value that is no state: the fatal error, and SIG keeps its value. -/
theorem signalArm_fatal {new : Sig} {s : State} {k : Nat} (he : risingEdge s.sig new = true)
    (ht : s.tap = .outside k) :
    signalArm new s =
      { s with
        fatal := true
        ev := s.ev ++ changeReport s.sig new ++
          [.fatalInternal s.tap] } := by
  simp only [signalArm, he, if_true, reportChange]
  rw [tapUpdate_outside (by exact ht)]
  simp [storeSig, State.raiseFatal, State.emit]

/-- All the SIGNAL arm can do in a state without the fatal error. -/
theorem signalArm_cases {new : Sig} {s : State} (hf : s.fatal = false) :
    (risingEdge s.sig new = false ∧ signalArm new s = { s with sig := new }) ∨
    (∃ t, risingEdge s.sig new = true ∧ s.tap = .state t ∧ signalArm new s =
      { s with
        sig := new
        drin := drinAfter t new.mode new.data s.drin
        irin := irinAfter t new.mode new.data s.irin
        tap := .state (tapNext t new.mode)
        ev := s.ev ++ changeReport s.sig new ++ transitionEvents t (tapNext t new.mode) }) ∨
    (∃ k, risingEdge s.sig new = true ∧ s.tap = .outside k ∧ signalArm new s =
      { s with fatal := true, ev := s.ev ++ changeReport s.sig new ++ [.fatalInternal s.tap] }) := by
  by_cases he : risingEdge s.sig new = true
  · rcases ht : s.tap with t | k
    · exact .inr (.inl ⟨t, he, rfl, signalArm_edge hf he ht⟩)
    · exact .inr (.inr ⟨k, he, rfl, by rw [signalArm_fatal he ht, ht]⟩)
  · simp only [Bool.not_eq_true] at he
    exact .inl ⟨he, signalArm_noEdge hf he⟩

/-- What the SIGNAL arm never writes. -/
theorem signalArm_frame (new : Sig) (s : State) :
    (signalArm new s).drout = s.drout ∧ (signalArm new s).irout = s.irout ∧ (signalArm new s).drseen = s.drseen ∧
    (signalArm new s).irseen = s.irseen ∧ (signalArm new s).conn = s.conn ∧ (signalArm new s).stopped = s.stopped ∧
    (signalArm new s).so = s.so ∧ (signalArm new s).no = s.no ∧ (signalArm new s).serial = s.serial ∧
    (signalArm new s).inputs = s.inputs := by
  rcases s with ⟨tap, ⟨clk, mo, da⟩, _, _, _, _, _, _, _, fatal, _, _, _, _, _, _⟩
  rcases new with ⟨c, m, d⟩
  simp only [signalArm, reportChange]
  cases tap <;> cases clk <;> cases c <;> cases fatal <;>
    simp [risingEdge, storeSig, tapUpdate, State.raiseFatal, State.emit]

/-- The records of a change report are changed-on-edge records, so they move no TAP state. -/
theorem changeReport_of_differ {old new : Sig} (h : changedOnEdge old new = true) :
    changeReport old new = [.changedOnEdge old new] := by
  simp [changeReport, h]

/-- All the tracker can do. -/
theorem observe_cases (v : Byte) (s : State) :
    (s.tap = .state .drshift ∧ observe v s =
      { s with
        drseen := insertSeen v s.drseen
        drout := bprepend s.drout v
        ev := s.ev ++ [.snapshot .dr (bprepend s.drout v) (insertSeen v s.drseen) s.irseen] }) ∨
    (s.tap = .state .irshift ∧ observe v s =
      { s with
        irseen := insertSeen v s.irseen
        irout := bprepend s.irout v
        ev := s.ev ++ [.snapshot .ir (bprepend s.irout v) s.drseen (insertSeen v s.irseen)] }) ∨
    (s.tap.shiftState? = none ∧ observe v s = s.emit (.unexpectedRead s.tap)) := by
  unfold observe
  rcases ht : s.tap with t | k
  · cases t <;> simp [TapReg.shiftState?]
  · simp [TapReg.shiftState?]

/-- What is forwarded, as a condition on the slot. -/
theorem forwarded_eq (c : Conn) (v : Byte) : forwarded c v = if c = .peer then [v] else [] := by
  cases c <;> rfl

/-- What the serial byte step never writes: the network side and the trace. -/
theorem forward_observe_frame (v : Byte) (s : State) :
    (forward v (observe v s)).netView = s.netView ∧ (forward v (observe v s)).inputs = s.inputs := by
  rcases observe_cases v s with ⟨h, e⟩ | ⟨h, e⟩ | ⟨h, e⟩ <;> rw [forward, e] <;> simp [State.netView]

end Sys2Proof.Machine
end

