-- ==== Sys2Proof/Laws/Step.lean ====
section
/-! SUPPORT. What a network step, a serial step and a whole step can do: the inversion lemmas the proofs of the statements
cite. -/

namespace Sys2Proof.Machine

/-- What each network instruction does after its byte is forwarded. -/
def netBody : Instr → State → State
  | .write c m d => signalArm (writeTriple c m d)
  | .blinkOn => State.emit (.indicator true)
  | .blinkOff => State.emit (.indicator false)
  | .rstR => State.emit (.sysreset true)
  | .rstT => State.emit (.sysreset true)
  | .rstS => State.emit (.sysreset false)
  | .rstU => State.emit (.sysreset false)
  | .read => fun t => t.emit (readEvent t.tap)
  | .unknown v => State.emit (.unknownChar v)
  | .rdbk _ => id

/-- Every network instruction is one network step with its own body. -/
theorem exec_net {i : Instr} (h : i.port = .ni) (s : State) :
    exec i s = netStep (encodeByte i) (netBody i) s := by
  cases i <;> first | rfl | cases h

theorem exec_rdbk (v : Byte) (s : State) :
    exec (.rdbk v) s = serStep (fun t => forward v (observe v t)) s := rfl

theorem exec_net_of_ready {i : Instr} (h : i.port = .ni) {s : State} (hs : NetReady s) :
    exec i s = .next (netBody i (s.sendSo (encodeByte i))) := by
  rw [exec_net h, netStep_of_ready hs]

theorem exec_rdbk_of_ready (v : Byte) {s : State} (hs : SerReady s) :
    exec (.rdbk v) s = .next (forward v (observe v s)) := by
  rw [exec_rdbk, serStep_of_ready hs]

/-- All a network instruction can do when it answers a next state. -/
theorem exec_net_cases {i : Instr} (hp : i.port = .ni) {s t : State} (h : exec i s = .next t) :
    NetReady s ∧ t = netBody i (s.sendSo (encodeByte i)) := by
  rw [exec_net hp] at h; exact netStep_cases h

/-- All RDBK can do when it answers a next state. -/
theorem exec_rdbk_cases {v : Byte} {s t : State} (h : exec (.rdbk v) s = .next t) :
    SerReady s ∧ t = forward v (observe v s) := by
  rw [exec_rdbk] at h; exact serStep_cases h

/-- What a network instruction other than WRITE does: forward, one record. -/
theorem netBody_report {i : Instr} (hi : ∀ c m d, i ≠ .write c m d) (hp : i.port = .ni) (s : State) :
    ∃ e, netBody i s = s.emit e := by
  cases i with
  | write c m d => exact absurd rfl (hi c m d)
  | rdbk v => cases hp
  | _ => exact ⟨_, rfl⟩

/-- All the next input can be: a non-waiting input of the trace. -/
theorem nextInput_admitted {s : State} {tr : List Input} {i : Input} {rest : List Input}
    (h : nextInput s tr = some (i, rest)) : i ∈ tr ∧ s.admits i ≠ .wait := by
  induction tr generalizing i rest with
  | nil => cases h
  | cons j tr ih =>
    simp only [nextInput] at h
    split at h
    · obtain ⟨⟨i', rest'⟩, hp, he⟩ := Option.map_eq_some_iff.mp h
      cases he
      exact ⟨List.mem_cons_of_mem _ (ih hp).1, (ih hp).2⟩
    · rename_i hw; cases h; exact ⟨List.mem_cons_self, by simp [hw]⟩
    · rename_i hw; cases h; exact ⟨List.mem_cons_self, by simp [hw]⟩

/-- An input at the head that does not wait is the next input. -/
theorem nextInput_cons {s : State} {i : Input} {rest : List Input} (h : s.admits i ≠ .wait) :
    nextInput s (i :: rest) = some (i, rest) := by
  cases ha : s.admits i <;> simp_all [nextInput]

/-- A started, running block admits an input by its Connection Slot alone. -/
theorem admits_of_serReady {s : State} (h : SerReady s) (i : Input) : s.admits i = s.conn.admits i := by
  obtain ⟨hf, hs, ho⟩ := h
  simp [State.admits, hf, hs, ho]

/-- All a step can do when it answers a next state: nothing, or never process an input, or take it. -/
theorem step_cases {s t : State} (h : step s = .next t) :
    (nextInput s s.inputs = none ∧ t = s) ∨
    (∃ i rest, nextInput s s.inputs = some (i, rest) ∧ s.admits i = .discard ∧ t = { s with inputs := rest }) ∨
    (∃ i rest, nextInput s s.inputs = some (i, rest) ∧ s.admits i = .take ∧
      perform i { s with inputs := rest } = .next t) := by
  unfold step blockStep at h
  split at h
  · rename_i hn
    refine .inl ⟨hn, ?_⟩
    unfold idleStep at h
    split at h <;> cases h <;> rfl
  · rename_i i rest hn
    split at h
    · rename_i ha; exact .inr (.inr ⟨i, rest, hn, ha, h⟩)
    · rename_i ha; exact absurd ha (nextInput_admitted hn).2
    · rename_i ha; cases h; exact .inr (.inl ⟨i, rest, hn, ha, rfl⟩)

/-- After STOP no input has a step. -/
theorem nextInput_of_stopped {s : State} (h : s.stopped = true) (l : List Input) : nextInput s l = none := by
  induction l with
  | nil => rfl
  | cons i l ih => simp [nextInput, State.admits, h, ih]

/-- Two states that admit the same inputs take the same next input of a trace. -/
theorem nextInput_congr {s t : State} (h : ∀ i, s.admits i = t.admits i) (l : List Input) :
    nextInput s l = nextInput t l := by
  induction l with
  | nil => rfl
  | cons i l ih => simp [nextInput, h, ih]

/-- In a started block the outcome of the open has no step. -/
theorem openResult_not_taken {s : State} (ho : s.serial = .opened) (ok : Bool) : s.admits (.openResult ok) ≠ .take := by
  simp only [State.admits, ho]
  cases s.stopped <;> cases s.fatal <;> simp [afterFatalAdmits, Conn.admits]

/-- All a serial error can do. -/
theorem serialErrorStep_cases (p : SerialErrorPolicy) (s : State) :
    serialErrorStep p s = s ∨ (s.conn = .peer ∧ p = .closePeer ∧ serialErrorStep p s = closeStep s) ∨
    (p = .stop ∧ serialErrorStep p s = stopStep s) := by
  cases p
  · exact .inl rfl
  · cases hc : s.conn
    · exact .inl (by simp [serialErrorStep, hc])
    · exact .inr (.inl (by simp [serialErrorStep, hc]))
  · exact .inr (.inr ⟨rfl, rfl⟩)

/-- All a step of a started block can do: nothing, never process an input, a network byte, a serial byte, an accept, a close,
or a stop (the last two also through the policy for a serial error). -/
theorem step_cases_opened {s t : State} (ho : s.serial = .opened) (h : step s = .next t) :
    t = s ∨ (∃ rest, t = { s with inputs := rest }) ∨
    (∃ b rest, nextInput s s.inputs = some (.netByte b, rest) ∧ exec (decodeNet b) { s with inputs := rest } = .next t) ∨
    (∃ v rest, nextInput s s.inputs = some (.serByte v, rest) ∧ exec (.rdbk v) { s with inputs := rest } = .next t) ∨
    (∃ rest, nextInput s s.inputs = some (.accept, rest) ∧ s.conn = .none ∧ t = acceptStep { s with inputs := rest }) ∨
    (∃ rest, ((∃ c, nextInput s s.inputs = some (.close c, rest)) ∨
      (nextInput s s.inputs = some (.serialError, rest) ∧ Config.serialErrorPolicy = .closePeer)) ∧
      t = closeStep { s with inputs := rest }) ∨
    (∃ rest, t = stopStep { s with inputs := rest }) := by
  obtain ⟨-, rfl⟩ | ⟨i, rest, -, -, rfl⟩ | ⟨i, rest, hn, ha, hp⟩ := step_cases h
  · exact .inl rfl
  · exact .inr (.inl ⟨_, rfl⟩)
  · cases i with
    | netByte b => exact .inr (.inr (.inl ⟨b, rest, hn, hp⟩))
    | serByte v => exact .inr (.inr (.inr (.inl ⟨v, rest, hn, hp⟩)))
    | accept =>
      refine .inr (.inr (.inr (.inr (.inl ⟨rest, hn, ?_, by cases hp; rfl⟩))))
      simp only [State.admits, ho] at ha
      cases hs : s.stopped <;> cases hf : s.fatal <;> cases hc : s.conn <;>
        simp_all [afterFatalAdmits, Conn.admits]
    | close c => exact .inr (.inr (.inr (.inr (.inr (.inl ⟨rest, .inl ⟨c, hn⟩, by cases hp; rfl⟩)))))
    | stop => exact .inr (.inr (.inr (.inr (.inr (.inr ⟨rest, by cases hp; rfl⟩)))))
    | serialError =>
      cases hp
      rcases serialErrorStep_cases Config.serialErrorPolicy { s with inputs := rest } with e | ⟨-, hpol, e⟩ | ⟨-, e⟩
      · exact .inr (.inl ⟨rest, e⟩)
      · exact .inr (.inr (.inr (.inr (.inr (.inl ⟨rest, .inr ⟨hn, hpol⟩, e⟩)))))
      · exact .inr (.inr (.inr (.inr (.inr (.inr ⟨rest, e⟩)))))
    | openResult ok => exact absurd ha (openResult_not_taken ho ok)

/-- All a step of a block that is not started can do: nothing to the block's own elements, or the outcome of the open, or
STOP. -/
theorem step_cases_notOpened {s t : State} (ho : s.serial ≠ .opened) (h : step s = .next t) :
    t = s ∨ (∃ rest, t = { s with inputs := rest }) ∨
    (s.serial = .unopened ∧ ((∃ rest, t = { State.reset with inputs := rest }) ∨
      (∃ rest, t = { s with serial := .openFailed, inputs := rest }) ∨ (∃ rest, t = stopStep { s with inputs := rest }))) := by
  obtain ⟨-, rfl⟩ | ⟨i, rest, -, -, rfl⟩ | ⟨i, rest, -, ha, hp⟩ := step_cases h
  · exact .inl rfl
  · exact .inr (.inl ⟨_, rfl⟩)
  · have hser : s.serial = .openFailed ∨ s.serial = .unopened := by cases hq : s.serial <;> simp_all
    simp only [State.admits] at ha
    split at ha
    · cases ha
    · rcases hser with hser | hser <;> simp only [hser] at ha
      · cases ha
      · cases i <;> simp [beforeStartAdmits] at ha
        · exact .inr (.inr ⟨hser, .inr (.inr ⟨rest, by cases hp; rfl⟩)⟩)
        · rename_i ok
          cases ok
          · exact .inr (.inr ⟨hser, .inr (.inl ⟨rest, by cases hp; rfl⟩)⟩)
          · exact .inr (.inr ⟨hser, .inl ⟨rest, by cases hp; rfl⟩⟩)

/-- A step on a head input that is taken is the step on that input. -/
theorem step_take {s : State} {i : Input} {rest : List Input} (hi : s.inputs = i :: rest)
    (ha : s.admits i = .take) : step s = perform i { s with inputs := rest } := by
  have hn : nextInput s s.inputs = some (i, rest) := by rw [hi]; exact nextInput_cons (by simp [ha])
  simp [step, blockStep, hn, ha]

/-- A step on a head input that can have no step never processes it. -/
theorem step_discard {s : State} {i : Input} {rest : List Input} (hi : s.inputs = i :: rest)
    (ha : s.admits i = .discard) : step s = .next { s with inputs := rest } := by
  have hn : nextInput s s.inputs = some (i, rest) := by rw [hi]; exact nextInput_cons (by simp [ha])
  simp [step, blockStep, hn, ha]

/-- Following the transitions of two streams one after the other. -/
theorem followTransitions_append (t : TapState) (a b : List Event) :
    followTransitions t (a ++ b) = (followTransitions t a).bind (fun u => followTransitions u b) := by
  induction a generalizing t with
  | nil => rfl
  | cons e a ih =>
    cases e <;> simp only [List.cons_append, followTransitions, ih]
    split <;> rfl

/-- A run that starts with a step goes on from where that step leads. -/
theorem run_of_step {n : Nat} {s t : State} (h : step s = .next t) : run (n + 1) s = run n t := by
  simp [run, h]

end Sys2Proof.Machine
end

