-- ==== Sys2Proof/Tests/Slice0.lean ====
section
/-! SUPPORT. Tests on small states, expected results from the worked examples and vectors of 95_test_vectors.md; the smoke test of
WellFormed; and for every statement with hypotheses a witness that meets them. -/

namespace Sys2Proof.Machine.Tests

/-- The start state of the vectors: session start after one ACCEPT (95_test_vectors.md). -/
def live : State := { State.reset with conn := .peer }

/-- The start state in a given TAP state. -/
def at_ (t : TapState) : State := { live with tap := .state t }

/-- The state an instruction leads to, if it answers a next state. -/
def after (i : Instr) (s : State) : Option State :=
  match exec i s with
  | .next t => some t
  | .fault _ => none
  | .refused _ => none

/-- The state a step leads to, if it answers a next state. -/
def stepped (s : State) : Option State :=
  match step s with
  | .next t => some t
  | .fault _ => none
  | .refused _ => none

/-! ### WellFormed: an ill-formed term for each check -/

theorem test_wf_refuses_unknown_of_write_byte : (Instr.unknown 0x30#8).wellFormed = false := by decide
theorem test_wf_refuses_unknown_of_last_write_byte : (Instr.unknown 0x37#8).wellFormed = false := by decide
theorem test_wf_refuses_unknown_of_each_fixed_byte :
    [0x42#8, 0x62#8, 0x72#8, 0x74#8, 0x73#8, 0x75#8, 0x52#8].all (fun b => !(Instr.unknown b).wellFormed) = true := by decide
theorem test_wf_accepts_unknown_neighbours :
    [0x2F#8, 0x38#8, 0x41#8, 0x43#8, 0x51#8, 0x53#8, 0x76#8, 0xB0#8, 0xFF#8].all (fun b => (Instr.unknown b).wellFormed) = true := by
  decide

/-! ### Decoding: the words of 30_encoding.md written out (vectors DEC1 to DEC22) -/

theorem test_decode_write_000 : decode .ni [0b00110000#8] = .instr (.write false false false) [] := by decide
theorem test_decode_write_011 : decode .ni [0b00110011#8] = .instr (.write false true true) [] := by decide
theorem test_decode_write_100 : decode .ni [0b00110100#8] = .instr (.write true false false) [] := by decide
theorem test_decode_write_110 : decode .ni [0b00110110#8] = .instr (.write true true false) [] := by decide
theorem test_decode_blinkOn : decode .ni [0b01000010#8] = .instr .blinkOn [] := by decide
theorem test_decode_blinkOff : decode .ni [0b01100010#8] = .instr .blinkOff [] := by decide
theorem test_decode_rstR : decode .ni [0b01110010#8] = .instr .rstR [] := by decide
theorem test_decode_rstT : decode .ni [0b01110100#8] = .instr .rstT [] := by decide
theorem test_decode_rstS : decode .ni [0b01110011#8] = .instr .rstS [] := by decide
theorem test_decode_rstU : decode .ni [0b01110101#8] = .instr .rstU [] := by decide
theorem test_decode_read : decode .ni [0b01010010#8] = .instr .read [] := by decide
theorem test_decode_unknown : decode .ni [0b01010001#8] = .instr (.unknown 0x51#8) [] := by decide
theorem test_decode_rdbk : decode .si [0b00110100#8] = .instr (.rdbk 0x34#8) [] := by decide
theorem test_decode_takes_one_byte : decode .ni [0x42#8, 0x35#8] = .instr .blinkOn [0x35#8] := by decide
theorem test_decode_rejects_no_byte : decode .si [] = .rejected .noByte := by decide
theorem test_decodeTableWord_write : decodeTableWord 8 0x35 = some (.write true false true) := by decide
theorem test_encode_write : encode (.write true false true) = [0x35#8] := by decide
theorem test_clk_expansions : clkBytes false true = [0x31#8, 0x35#8] ∧ clkBytes true false = [0x32#8, 0x36#8] := by decide

/-! ### WRITE -/

/-- Vector CMD1. -/
theorem test_write_first_edge :
    (after (.write true false false) live).map (fun t => (t.tap, t.sig, t.so, t.ev)) =
      some (.state .idle, ⟨true, false, false⟩, [0x34#8], [.transition .reset .idle]) := by decide

/-- Vector E2: the anomaly, then the update with the new mode (RESET stays RESET, silent). -/
theorem test_write_changed_on_edge :
    (after (.write true true false) live).map (fun t => (t.tap, t.ev)) =
      some (.state .reset, [.changedOnEdge ⟨false, false, false⟩ ⟨true, true, false⟩]) := by decide

/-- Vector L4: the full log loses its head and one more; the bit, then the separator. -/
theorem test_write_full_log :
    (after (.write true true false) { at_ .drshift with drin := .zero :: List.replicate 79 .one }).map (·.drin) =
      some (List.replicate 78 .one ++ [.zero, .space]) := by decide

/-- Vector FSM21: from IRCAPTURE only the separator. -/
theorem test_write_ircapture :
    (after (.write true true true) { at_ .ircapture with irin := [.one, .zero] }).map (fun t => (t.tap, t.irin, t.drin)) =
      some (.state .irexit1, [.one, .zero, .space], []) := by decide

/-- Vector FT1: the byte is forwarded, the fatal error reported, TAP and SIG unchanged. -/
theorem test_write_fatal :
    (after (.write true false false) { live with tap := .outside 0 }).map
      (fun t => (t.so, t.ev, t.fatal, t.tap.number, t.sig)) =
      some ([0x34#8], [.fatalInternal (.outside 0)], true, 16, ⟨false, false, false⟩) := by decide

/-! ### The other network commands (vectors CMD3 to CMD14) -/

theorem test_blinkOn : (after .blinkOn (at_ .drshift)).map (fun t => (t.so, t.ev)) =
    some ([0x42#8], [.indicator true]) := by decide
theorem test_blinkOff : (after .blinkOff (at_ .idle)).map (fun t => (t.so, t.ev)) =
    some ([0x62#8], [.indicator false]) := by decide
theorem test_rstR : (after .rstR (at_ .drpause)).map (fun t => (t.so, t.ev, t.tap)) =
    some ([0x72#8], [.sysreset true], .state .drpause) := by decide
theorem test_rstT : (after .rstT (at_ .irshift)).map (fun t => (t.so, t.ev, t.tap)) =
    some ([0x74#8], [.sysreset true], .state .irshift) := by decide
theorem test_rstS : (after .rstS live).map (fun t => (t.so, t.ev)) = some ([0x73#8], [.sysreset false]) := by decide
theorem test_rstU : (after .rstU (at_ .idle)).map (fun t => (t.so, t.ev)) =
    some ([0x75#8], [.sysreset false]) := by decide
theorem test_read_in_irshift : (after .read (at_ .irshift)).map (fun t => (t.so, t.ev)) =
    some ([0x52#8], [.readRequest .irshift]) := by decide
theorem test_read_in_drpause : (after .read (at_ .drpause)).map (·.ev) =
    some [.readOutOfState (.state .drpause)] := by decide
theorem test_unknown : (after (.unknown 0xFF#8) live).map (fun t => (t.so, t.ev)) =
    some ([0xFF#8], [.unknownChar 0xFF#8]) := by decide

/-! ### RDBK (vectors RB2, RB4, RB6, L6) -/

theorem test_rdbk_ir :
    (after (.rdbk 0x31#8) { at_ .irshift with irout := [0x30#8], irseen := [0x30#8] }).map
      (fun t => (t.irout, t.irseen, t.no, t.ev)) =
      some ([0x31#8, 0x30#8], [0x30#8, 0x31#8], [0x31#8],
        [.snapshot .ir [0x31#8, 0x30#8] [] [0x30#8, 0x31#8]]) := by decide
theorem test_rdbk_dr_without_peer :
    (after (.rdbk 0xFF#8) { at_ .drshift with conn := .none, drout := List.replicate 80 0x78#8 }).map
      (fun t => (t.drout.take 2, t.drout.length, t.drseen, t.no)) =
      some ([0xFF#8, 0x78#8], 80, [0xFF#8], []) := by decide

/-! ### Steps, connection and host interface -/

/-- Vector CN2: the second ACCEPT waits; the state is unchanged. -/
theorem test_step_accept_waits : stepped { live with inputs := [.accept] } = some { live with inputs := [.accept] } := by decide

/-- Vector CN3: CLOSE passes the waiting ACCEPT, which stays. -/
theorem test_step_close_before_waiting_accept :
    (stepped { live with inputs := [.accept, .close .disconnect] }).map (fun t => (t.conn, t.ev, t.inputs)) =
      some (.none, [.disconnected], [.accept]) := by decide

/-- The host's question at reset: the placed byte is the next instruction. -/
theorem test_withFetchWord_at_reset :
    (stepped (State.reset.withFetchWord 8 0x34)).map (fun t => (t.so, t.tap)) = some ([0x34#8], .state .idle) := by decide

/-- Each policy for a serial error, as the operation takes it (R107). -/
theorem test_serial_error_policies :
    serialErrorStep .ignore live = live ∧ serialErrorStep .closePeer live = closeStep live ∧
    serialErrorStep .stop live = stopStep live := by decide

/-- Event codes of R109 and indexes of R8. -/
theorem test_codes : (Event.disconnected).code = 0x30#8 ∧ (Event.fatalInternal (.outside 0)).code = 0xF0#8 ∧
    TapState.irupdate.index = 15#4 := by decide

/-! ### Witnesses: a state and operands that meet the hypotheses of each statement -/

theorem witness_WriteByteCarriesItsThreeLevels : (0x37#8).extractLsb' 3 5 = 0b00110#5 ∧ (7 : Nat) < 8 := by decide

theorem witness_DecodeAndEncodeAgree :
    (Instr.unknown 0x2F#8).wellFormed = true ∧ decode .ni [0x76#8, 0x30#8] = .instr (.unknown 0x76#8) [0x30#8] := by decide

theorem witness_StepRunsTheDecodedInstruction :
    NetReady { live with inputs := [.netByte 0x42#8] } ∧ SerReady { State.reset with inputs := [.serByte 0x30#8] } ∧
    (255 : Nat) < 256 := by decide

theorem witness_WaitingAcceptsAreLeftUntouched :
    NetReady { live with inputs := [.accept, .accept, .close .disconnect] } ∧ Input.close .disconnect ≠ .accept ∧
    [Input.accept, .accept, .close .disconnect] = List.replicate 2 .accept ++ .close .disconnect :: [] ∧
    NetReady { live with inputs := List.replicate 2 .accept } := by decide

theorem witness_BlockWithoutInputStaysInItsState : SerReady State.reset ∧ State.reset.inputs = [] := by decide

theorem witness_WriteCompletesWithItsWholeEffect : NetReady (at_ .drshift) ∧ (at_ .drshift).tap = .state .drshift := by decide

/-- One witness for each of the three clauses: differing, equal, and no edge. -/
theorem witness_RisingEdgeReportsThenUpdatesOnce :
    NetReady (at_ .irshift) ∧ (at_ .irshift).tap = .state .irshift ∧ (at_ .irshift).sig.clk = false ∧
    (true ≠ (at_ .irshift).sig.mode) ∧ (false = (at_ .irshift).sig.mode) ∧ (false = (at_ .irshift).sig.data) ∧
    NetReady { live with sig := ⟨true, false, false⟩ } := by decide

theorem witness_OnlyWriteStoresTheTriple :
    after (.write true true true) live ≠ none ∧ (after (.write true true true) live).map (·.fatal) = some false ∧
    (after .read live).map (·.fatal) = some false ∧ Instr.read.port = .ni := by decide

theorem witness_EdgeOutsideTheSixteenStatesIsFatal :
    NetReady { live with tap := .outside 0 } ∧ ({ live with tap := .outside 0 } : State).sig.clk = false := by decide

theorem witness_FatalAndStoppedEndEveryAgentsSteps :
    ({ live with fatal := true, inputs := [.stop] } : State).serial = .opened ∧
    (stepped { live with fatal := true, inputs := [.netByte 0x30#8, .stop] }).isSome = true ∧
    Input.stop ∉ ({ live with fatal := true, inputs := [.serByte 0x30#8] } : State).inputs ∧
    ({ live with stopped := true } : State).stopped = true := by decide

theorem witness_TapMovesByTheTable : (TapState.irexit2, TapState.irupdate, TapState.irshift) ∈ tapTable ∧
    NetReady (at_ .irexit2) ∧ (at_ .irexit2).sig.clk = false := by decide

theorem witness_StatesThatShiftNothingLeaveTheLogs : (TapState.drpause, TapState.drexit2, TapState.drpause) ∈ tapTable ∧
    TapState.drpause ∉ [TapState.drcapture, .drshift, .ircapture, .irshift] ∧ NetReady (at_ .drpause) ∧
    (at_ .drpause).sig.clk = false := by decide

theorem witness_ShiftStatesAppendTheBitThenTheSeparator :
    NetReady { at_ .drshift with drin := List.replicate 80 .one } ∧ NetReady { at_ .irshift with irin := List.replicate 80 .one } ∧
    (List.replicate 80 ShiftChar.one).length = 80 := by decide

theorem witness_CaptureStatesAppendOnlyTheSeparator : NetReady (at_ .drcapture) ∧ NetReady (at_ .ircapture) ∧
    live.sig.clk = false := by decide

/-- Both clauses at their boundary: 79 elements and 80. -/
theorem witness_BoundedAppendDropsOnlyTheHead :
    (List.replicate 79 ShiftChar.one).length < 80 ∧ (List.replicate 80 ShiftChar.one).length = 80 := by decide

theorem witness_BoundedPrependDropsOnlyTheTail :
    (List.replicate 79 (0x78#8 : Byte)).length < 80 ∧ (List.replicate 80 (0x78#8 : Byte)).length = 80 := by decide

theorem witness_BitsAreAppendedOnlyInShiftStates : (at_ .drshift).tap = .state .drshift ∧ TapState.drcapture ≠ .drshift ∧
    (at_ .irshift).tap = .state .irshift ∧ TapState.irexit2 ≠ .irshift := by decide

theorem witness_TransitionsAreReportedExactlyOnChange :
    tapNext .reset false ≠ .reset ∧ tapNext .reset true = .reset ∧ tapNext .irpause false = .irpause := by decide

theorem witness_FiveModeOneClocksReachReset :
    NetReady { at_ .drshift with inputs := netTrace ([true, false, true, false, true].flatMap (clkBytes true)) } ∧
    TapLegal (at_ .drshift) ∧ 5 ≤ [true, false, true, false, true].length := by decide

theorem witness_ClkMakesOneCleanEdge :
    NetReady { at_ .idle with inputs := netTrace (clkBytes true false) ++ [.stop] } ∧ (at_ .idle).tap = .state .idle := by decide

theorem witness_OnlyARisingEdgeMovesTap :
    TapLegal live ∧ live.serial = .opened ∧
    (stepped { live with inputs := [.netByte 0x34#8] }).map (·.tap) = some (.state .idle) ∧ live.tap ≠ .state .idle := by decide

theorem witness_SideChannelCommandsForwardAndReport : NetReady live := by decide

theorem witness_ReadReportsByTheTapState : NetReady (at_ .drshift) ∧ NetReady (at_ .irshift) ∧ NetReady (at_ .drpause) ∧
    (at_ .drpause).tap ≠ .state .drshift ∧ (at_ .drpause).tap ≠ .state .irshift := by decide

theorem witness_UnknownBytesAreForwardedAndReported : NetReady live ∧ (Instr.unknown 0x38#8).wellFormed = true := by decide

theorem witness_AnomaliesComeOnlyFromTheirCauses : after (.unknown 0x38#8) live ≠ none ∧ after .read live ≠ none ∧
    after (.write true true false) live ≠ none ∧ after (.rdbk 0x30#8) live ≠ none := by decide

theorem witness_AnomaliesNoneWithoutInstruction : ∃ t, perform .accept live = .next t := ⟨_, rfl⟩

theorem witness_NetworkCommandsLeaveTheRest : after .rstU live ≠ none ∧ Instr.rstU.port = .ni ∧
    after (.write true true false) { live with sig := ⟨true, false, false⟩ } ≠ none := by decide

theorem witness_NetworkStepFollowsThePseudocode : NetReady live := by decide

theorem witness_EveryNetworkByteIsForwardedOnce :
    NetReady { live with inputs := netTrace [0x30#8, 0x51#8] ++ [.stop] } ∧ TapLegal live := by decide

theorem witness_NoPeerNoNetworkStep :
    SerReady { State.reset with inputs := [.netByte 0x30#8] } ∧ State.reset.conn = .none ∧ Instr.blinkOn.port = .ni := by decide

theorem witness_ReadbackCompletesWithItsWholeEffect : SerReady (at_ .drshift) ∧ SerReady (at_ .irshift) ∧ SerReady live ∧
    live.tap ≠ .state .drshift ∧ live.tap ≠ .state .irshift := by decide

theorem witness_ReadbackIsRecordedInItsDirection : SerReady (at_ .drshift) ∧ SerReady (at_ .irshift) := by decide

theorem witness_ReadbackIsForwardedOnlyToAPeer : SerReady live ∧ live.conn = .peer ∧ SerReady State.reset ∧
    State.reset.conn = .none := by decide

theorem witness_SeenSetsOnlyGrow : SeenCanonical [0x30#8, 0x31#8] ∧ (0x31#8 : Byte) ∈ [0x30#8, 0x31#8] ∧
    live.serial = .opened ∧ stepped live ≠ none := by decide

theorem witness_ReadbackLeavesTheRest : after (.rdbk 0x30#8) live ≠ none ∧ live.tap ≠ .state .drshift ∧
    live.tap ≠ .state .irshift := by decide

theorem witness_AcceptInstallsThePeer : SerReady { State.reset with inputs := [.accept] } ∧ State.reset.conn = .none := by decide

theorem witness_CloseClearsTheSlot :
    NetReady { live with inputs := [.close .sendError, .netByte 0x30#8] } ∧
    NetReady { live with inputs := [.close .sendError, .serByte 0x30#8] } ∧
    Input.accept ∉ [.netByte 0x30#8, Input.serByte 0x30#8] ∧
    (∃ u, run 2 { closeStep live with inputs := [.netByte 0x30#8, .serByte 0x30#8] } = .next u) :=
  ⟨by decide, by decide, by decide, _, rfl⟩

theorem witness_ReconnectResetsNothing : NetReady { live with inputs := [.close .disconnect, .accept] } := by decide

theorem witness_SlotIsSetOnAcceptAndClearedOnClose :
    (stepped { State.reset with inputs := [.accept] }).map (·.conn) = some .peer ∧
    (stepped { live with inputs := [.close .receiveError] }).map (·.conn) = some .none ∧
    live.serial = .opened := by decide

theorem witness_StopEndsEveryStep : live.serial = .opened ∧ live.stopped = false ∧
    ({ live with inputs := [.stop] } : State).inputs = .stop :: [] := by decide

theorem witness_StopBeforeTheStartEndsTheProcess : State.powerOn.serial = .unopened ∧ State.powerOn.stopped = false ∧
    (∀ i ∈ [.serByte 0x30#8, Input.accept], i.agent ≠ .environment) ∧
    ({ State.powerOn with inputs := [.serByte 0x30#8, .accept, .stop, .openResult true] } : State).inputs =
      [.serByte 0x30#8, .accept] ++ .stop :: [.openResult true] := by decide

theorem witness_FailedOpenIsFatalAtStartup : State.powerOn.serial = .unopened ∧ State.powerOn.stopped = false ∧
    (Input.serByte 0x30#8).agent ≠ .environment := by decide

/-- The policy is one of the three, so one of the first three hypotheses on it holds (both values of the slot for the second). -/
theorem witness_SerialErrorFollowsThePolicy :
    SerReady { live with inputs := [.serialError] } ∧ live.conn = .peer ∧
    SerReady { State.reset with inputs := [.serialError] } ∧ State.reset.conn = .none ∧
    (∀ p : SerialErrorPolicy, p = .ignore ∨ p = .closePeer ∨ p = .stop) := by
  refine ⟨by decide, by decide, by decide, by decide, fun p => ?_⟩
  cases p <;> decide

theorem witness_LogsNeverExceedTheBound : LogsBounded { live with drin := List.replicate 80 .one } ∧ stepped live ≠ none := by
  decide

theorem witness_StepKeepsTheSessionInvariant :
    SessionInv { live with inputs := [.netByte 0x34#8] } ∧ stepped { live with inputs := [.netByte 0x34#8] } ≠ none :=
  ⟨⟨by decide, by decide, by decide, by decide, by decide, by decide⟩, by decide⟩

theorem witness_EventStreamAlwaysTellsTheTapState :
    EventsTrackTap { at_ .idle with ev := [.transition .reset .idle], inputs := [.netByte 0x36#8] } ∧
    stepped { at_ .idle with ev := [.transition .reset .idle], inputs := [.netByte 0x36#8] } ≠ none := by decide

theorem witness_EveryReachableSessionIsSafe : Reachable ((State.reset.arrive .accept).arrive (.netByte 0x34#8)) :=
  .arrive _ (.arrive _ .reset)

theorem witness_OutputsAreAppendedAndNeverRead : live.serial = .opened ∧
    stepped { live with inputs := [.netByte 0x34#8] } ≠ none := by decide

theorem witness_EveryInterleavingForwardsInOrder :
    NetReady { live with inputs := [.serByte 0x30#8, .netByte 0x34#8, .serByte 0x31#8] } ∧ TapLegal live ∧
    bytesOnly [.serByte 0x30#8, .netByte 0x34#8, .serByte 0x31#8] = true := by decide

theorem witness_SerialSideNeverInfluencesTheNetworkSide :
    NetReady { at_ .drshift with inputs := [.netByte 0x36#8, .serByte 0x30#8] } ∧
    TapLegal { at_ .drshift with inputs := [.netByte 0x36#8, .serByte 0x30#8] } ∧
    ({ at_ .drshift with inputs := [.netByte 0x36#8, .serByte 0x30#8] } : State).netView =
      ({ at_ .drshift with drout := [0x30#8], drseen := [0x30#8], inputs := [.serByte 0x31#8, .netByte 0x36#8] } : State).netView ∧
    bytesOnly [.netByte 0x36#8, .serByte 0x30#8] = true ∧ bytesOnly [.serByte 0x31#8, .netByte 0x36#8] = true ∧
    netBytesOf [.netByte 0x36#8, .serByte 0x30#8] = netBytesOf [.serByte 0x31#8, .netByte 0x36#8] := by decide

theorem witness_ReadbackRaceDependsOnTheOrder :
    NetReady { at_ .drshift with inputs := [.serByte 0x31#8, .netByte (writeByte true true false)] } ∧
    NetReady { at_ .drshift with inputs := [.netByte (writeByte true true false), .serByte 0x31#8] } ∧
    (at_ .drshift).sig.clk = false := by decide

theorem witness_OrdersAgreeWhenTapStays : NetReady (at_ .drshift) ∧ TapLegal (at_ .drshift) ∧
    (after (decodeNet 0x34#8) (at_ .drshift)).map (·.tap) = some (at_ .drshift).tap := by decide

end Sys2Proof.Machine.Tests
end

section
/-! R2, the bound of the four shift content logs: each operation that can write a log keeps `LogsBounded`, so every step does. -/

namespace Sys2Proof.Machine

/-! ### What each meaning does to the bound -/

/-- Only an update from one of the 16 states writes a log here, and by bounded appends (R64). -/
theorem signalArm_logsBounded {new : Sig} {s : State} (hf : s.fatal = false) (h : LogsBounded s) :
    LogsBounded (signalArm new s) := by
  obtain ⟨hdrin, hirin, hdrout, hirout⟩ := h
  obtain ⟨-, e⟩ | ⟨t, -, -, e⟩ | ⟨k, -, -, e⟩ := signalArm_cases (new := new) hf <;> rw [e]
  · exact ⟨hdrin, hirin, hdrout, hirout⟩
  · exact ⟨drinAfter_length_le hdrin, irinAfter_length_le hirin, hdrout, hirout⟩
  · exact ⟨hdrin, hirin, hdrout, hirout⟩

theorem netBody_logsBounded {i : Instr} {s : State} (hf : s.fatal = false) (h : LogsBounded s) :
    LogsBounded (netBody i s) := by
  cases i with
  | write c m d => exact signalArm_logsBounded hf h
  | _ => exact h

/-- The tracker writes at most the readback log of the current direction, by a bounded prepend (R89). -/
theorem observe_logsBounded {v : Byte} {s : State} (h : LogsBounded s) : LogsBounded (observe v s) := by
  obtain ⟨hdrin, hirin, hdrout, hirout⟩ := h
  obtain ⟨-, e⟩ | ⟨-, e⟩ | ⟨-, e⟩ := observe_cases v s <;> rw [e]
  · exact ⟨hdrin, hirin, bprepend_length_le _ _, hirout⟩
  · exact ⟨hdrin, hirin, hdrout, bprepend_length_le _ _⟩
  · exact ⟨hdrin, hirin, hdrout, hirout⟩

theorem exec_net_logsBounded {i : Instr} (hp : i.port = .ni) {s t : State} (h : LogsBounded s)
    (he : exec i s = .next t) : LogsBounded t := by
  obtain ⟨⟨-, hf, -, -⟩, rfl⟩ := exec_net_cases hp he
  exact netBody_logsBounded hf h

theorem exec_rdbk_logsBounded {v : Byte} {s t : State} (h : LogsBounded s) (he : exec (.rdbk v) s = .next t) :
    LogsBounded t := by
  obtain ⟨-, rfl⟩ := exec_rdbk_cases he
  exact observe_logsBounded h

/-! ### What each input does to the bound -/

/-- A successful open empties the logs (R125); a failed one leaves them. -/
theorem openStep_logsBounded {ok : Bool} {s : State} (h : LogsBounded s) : LogsBounded (openStep ok s) := by
  cases ok with
  | true => exact ⟨Nat.zero_le _, Nat.zero_le _, Nat.zero_le _, Nat.zero_le _⟩
  | false => exact h

theorem serialErrorStep_logsBounded {p : SerialErrorPolicy} {s : State} (h : LogsBounded s) :
    LogsBounded (serialErrorStep p s) := by
  obtain e | ⟨-, -, e⟩ | ⟨-, e⟩ := serialErrorStep_cases p s <;> rw [e] <;> exact h

theorem perform_logsBounded {i : Input} {s t : State} (h : LogsBounded s) (hp : perform i s = .next t) :
    LogsBounded t := by
  cases i with
  | netByte b => exact exec_net_logsBounded (decodeNet_port b) h hp
  | serByte v => exact exec_rdbk_logsBounded h hp
  | accept => cases hp; exact h
  | close c => cases hp; exact h
  | stop => cases hp; exact h
  | serialError => cases hp; exact serialErrorStep_logsBounded h
  | openResult ok => cases hp; exact openStep_logsBounded h

theorem step_logsBounded {s t : State} (h : LogsBounded s) (hs : step s = .next t) : LogsBounded t := by
  obtain ⟨-, rfl⟩ | ⟨i, rest, -, -, rfl⟩ | ⟨i, rest, -, -, hp⟩ := step_cases hs
  · exact h
  · exact h
  · exact perform_logsBounded (s := { s with inputs := rest }) h hp

/-! ### The statement -/

/-- Settles O49: the logs are empty at session start and before it, and every step keeps the bound. -/
theorem logsNeverExceedTheBound : Obligations.LogsNeverExceedTheBound :=
  ⟨rfl, by decide, by decide, fun _ _ => step_logsBounded⟩

end Sys2Proof.Machine
end

section
/-! R7, what moves `TAP`: the update of a WRITE byte on a rising edge, and nothing else in a started block. -/

namespace Sys2Proof

/-- The WRITE bytes are the bytes of R35: five fixed bits, then the three levels. -/
theorem writeByte_of_isWriteByte {b : Byte} (h : isWriteByte b = true) :
    writeByte (b.getLsbD 2) (b.getLsbD 1) (b.getLsbD 0) = b := by
  revert b; decide

/-- Only the WRITE range of R35 decodes to a WRITE, so the levels determine the byte. -/
theorem eq_writeByte_of_decodeNet {b : Byte} {c m d : Bool} (h : decodeNet b = .write c m d) :
    b = writeByte c m d := by
  unfold decodeNet at h
  split at h
  · rename_i hw
    cases h
    exact (writeByte_of_isWriteByte hw).symm
  · repeat' split at h
    all_goals cases h

end Sys2Proof

namespace Sys2Proof.Machine

/-- All a new triple on a rising edge can be. -/
theorem risingEdge_iff {old new : Sig} : risingEdge old new = true ↔ old.clk = false ∧ new.clk = true := by
  simp [risingEdge]

/-- A network instruction leaves `TAP`, unless it is a WRITE with a rising edge in one of the 16 states (R47, R63). -/
theorem netBody_tap_cases (i : Instr) {s : State} (hf : s.fatal = false) :
    (netBody i s).tap = s.tap ∨
    ∃ m d u, i = .write true m d ∧ s.sig.clk = false ∧ s.tap = .state u ∧
      (netBody i s).tap = .state (tapNext u m) ∧ (netBody i s).inputs = s.inputs := by
  cases i with
  | write c m d =>
    simp only [netBody]
    obtain ⟨-, e⟩ | ⟨u, he, hu, e⟩ | ⟨k, -, -, e⟩ := signalArm_cases (new := writeTriple c m d) hf <;> rw [e]
    · exact .inl rfl
    · obtain ⟨hclk, rfl⟩ := risingEdge_iff.mp he
      exact .inr ⟨m, d, u, rfl, hclk, hu, rfl, rfl⟩
    · exact .inl rfl
  | _ => exact .inl rfl

/-- The step on `s` to `t` took a WRITE byte of the connected peer that made a rising edge, and moved `TAP` to the
successor for its mode level (R47, R63). -/
def MovesTapByEdge (s t : State) : Prop :=
  ∃ (m d : Bool) (u : TapState), nextInput s s.inputs = some (.netByte (writeByte true m d), t.inputs) ∧
    s.conn = .peer ∧ s.sig.clk = false ∧ s.tap = .state u ∧ t.tap = .state (tapNext u m)

/-- All a step on a network byte can do to `TAP`. -/
theorem exec_netByte_tap_cases {b : Byte} {rest : List Input} {s t : State}
    (hn : nextInput s s.inputs = some (.netByte b, rest))
    (h : exec (decodeNet b) { s with inputs := rest } = .next t) : t.tap = s.tap ∨ MovesTapByEdge s t := by
  obtain ⟨⟨hconn, hfatal, -, -⟩, rfl⟩ := exec_net_cases (decodeNet_port b) h
  obtain e | ⟨m, d, u, hi, hclk, hu, htap, hinputs⟩ :=
    netBody_tap_cases (decodeNet b) (s := State.sendSo (encodeByte (decodeNet b)) { s with inputs := rest }) hfatal
  · exact .inl e
  · refine .inr ⟨m, d, u, ?_, hconn, hclk, hu, htap⟩
    rw [hinputs, ← eq_writeByte_of_decodeNet hi]
    exact hn

/-- The serial byte step is on the other side: it never writes `TAP` (R21, R90). -/
theorem exec_rdbk_tap {v : Byte} {s t : State} (h : exec (.rdbk v) s = .next t) : t.tap = s.tap := by
  obtain ⟨-, rfl⟩ := exec_rdbk_cases h
  exact congrArg NetView.tap (forward_observe_frame v s).1

/-- All a step of a started block can do to `TAP`. -/
theorem step_tap_cases_opened {s t : State} (ho : s.serial = .opened) (h : step s = .next t) :
    t.tap = s.tap ∨ MovesTapByEdge s t := by
  obtain rfl | ⟨rest, rfl⟩ | ⟨b, rest, hn, hb⟩ | ⟨v, rest, -, hv⟩ | ⟨rest, -, -, rfl⟩ | ⟨rest, -, rfl⟩ | ⟨rest, rfl⟩ :=
    step_cases_opened ho h
  · exact .inl rfl
  · exact .inl rfl
  · exact exec_netByte_tap_cases hn hb
  · exact .inl (exec_rdbk_tap (s := { s with inputs := rest }) hv)
  · exact .inl rfl
  · exact .inl rfl
  · exact .inl rfl

/-- All a step of a block that is not started can do to `TAP`: a successful open puts it at RESET (R125). -/
theorem step_tap_cases_notOpened {s t : State} (ho : s.serial ≠ .opened) (h : step s = .next t) :
    t.tap = s.tap ∨ t.tap = .state .reset := by
  obtain rfl | ⟨rest, rfl⟩ | ⟨-, ⟨rest, rfl⟩ | ⟨rest, rfl⟩ | ⟨rest, rfl⟩⟩ := step_cases_notOpened ho h
  · exact .inl rfl
  · exact .inl rfl
  · exact .inr rfl
  · exact .inl rfl
  · exact .inl rfl

/-- Every value a step can give `TAP` is the old one, RESET, or a successor of the table. -/
theorem step_tapLegal {s t : State} (hl : TapLegal s) (h : step s = .next t) : TapLegal t := by
  by_cases ho : s.serial = .opened
  · obtain e | ⟨m, d, u, -, -, -, -, e⟩ := step_tap_cases_opened ho h
    · rwa [TapLegal, e]
    · rw [TapLegal, e]; rfl
  · obtain e | e := step_tap_cases_notOpened ho h
    · rwa [TapLegal, e]
    · rw [TapLegal, e]; rfl

/-- Settles O26: the start value by computation, the rest from all a step can do to `TAP`. -/
theorem onlyARisingEdgeMovesTap : Obligations.OnlyARisingEdgeMovesTap :=
  ⟨rfl, rfl, fun _ _ => step_tapLegal, fun _ _ ho h hne => (step_tap_cases_opened ho h).resolve_left hne⟩

end Sys2Proof.Machine
end

section
/-! R19, the output streams are never read: every operation a step of a started block is made of commutes with putting
older contents before SO, NO and EV.  That a step only appends follows, with empty streams as the newer contents. -/

namespace Sys2Proof.Machine

/-! ### What a step reads of the state to choose what it does is the same with older outputs -/

section
variable (so no : List Byte) (ev : List Event) (s : State)

@[simp] theorem withOlderOutputs_tap : (withOlderOutputs so no ev s).tap = s.tap := rfl
@[simp] theorem withOlderOutputs_sig : (withOlderOutputs so no ev s).sig = s.sig := rfl
@[simp] theorem withOlderOutputs_conn : (withOlderOutputs so no ev s).conn = s.conn := rfl
@[simp] theorem withOlderOutputs_haltReason : (withOlderOutputs so no ev s).haltReason = s.haltReason := rfl
@[simp] theorem withOlderOutputs_admits (i : Input) : (withOlderOutputs so no ev s).admits i = s.admits i := rfl

end

/-- The operation gives the same with older output contents, which stay before what it appends. -/
def IgnoresOlderOutputs (f : State → State) : Prop :=
  ∀ so no ev s, f (withOlderOutputs so no ev s) = withOlderOutputs so no ev (f s)

/-! ### The operations -/

theorem IgnoresOlderOutputs.comp {f g : State → State} (hf : IgnoresOlderOutputs f) (hg : IgnoresOlderOutputs g) :
    IgnoresOlderOutputs (fun s => f (g s)) :=
  fun so no ev s => (congrArg f (hg so no ev s)).trans (hf so no ev (g s))

theorem sendSo_ignoresOlderOutputs (b : Byte) : IgnoresOlderOutputs (State.sendSo b) :=
  fun _ _ _ _ => by simp [State.sendSo, withOlderOutputs]

theorem emit_ignoresOlderOutputs (e : Event) : IgnoresOlderOutputs (State.emit e) :=
  fun _ _ _ _ => by simp [State.emit, withOlderOutputs]

theorem reportChange_ignoresOlderOutputs (old new : Sig) : IgnoresOlderOutputs (reportChange old new) :=
  fun _ _ _ _ => by simp [reportChange, withOlderOutputs]

theorem forward_ignoresOlderOutputs (v : Byte) : IgnoresOlderOutputs (forward v) :=
  fun _ _ _ _ => by simp [forward, withOlderOutputs]

theorem tapUpdate_ignoresOlderOutputs (m d : Bool) : IgnoresOlderOutputs (tapUpdate m d) := by
  intro so no ev s
  cases ht : s.tap <;> simp [tapUpdate, State.raiseFatal, State.emit, withOlderOutputs, ht]

theorem storeSig_ignoresOlderOutputs (new : Sig) : IgnoresOlderOutputs (storeSig new) := by
  intro so no ev s
  cases hf : s.fatal <;> simp [storeSig, withOlderOutputs, hf]

/-- Whether there is an edge is read off SIG alone; both arms are made of the operations above. -/
theorem signalArm_ignoresOlderOutputs (new : Sig) : IgnoresOlderOutputs (signalArm new) := by
  intro so no ev s
  unfold signalArm
  rw [withOlderOutputs_sig]
  split
  · rw [reportChange_ignoresOlderOutputs, tapUpdate_ignoresOlderOutputs, storeSig_ignoresOlderOutputs]
  · rw [storeSig_ignoresOlderOutputs]

theorem netBody_ignoresOlderOutputs (i : Instr) : IgnoresOlderOutputs (netBody i) := by
  cases i with
  | write c m d => exact signalArm_ignoresOlderOutputs _
  | read => exact fun so no ev s => emit_ignoresOlderOutputs (readEvent s.tap) so no ev s
  | rdbk v => exact fun _ _ _ _ => rfl
  | _ => exact emit_ignoresOlderOutputs _

/-- The tracker reads `TAP`, the seen sets and the readback logs, no stream. -/
theorem observe_ignoresOlderOutputs (v : Byte) : IgnoresOlderOutputs (observe v) := by
  intro so no ev s
  unfold observe
  rw [withOlderOutputs_tap]
  split
  · simp [withOlderOutputs]
  · simp [withOlderOutputs]
  · exact emit_ignoresOlderOutputs _ so no ev s

theorem closeStep_ignoresOlderOutputs : IgnoresOlderOutputs closeStep :=
  fun so no ev s => emit_ignoresOlderOutputs .disconnected so no ev { s with conn := .none }

theorem serialErrorStep_ignoresOlderOutputs (p : SerialErrorPolicy) : IgnoresOlderOutputs (serialErrorStep p) := by
  intro so no ev s
  cases p with
  | ignore => rfl
  | stop => rfl
  | closePeer =>
    simp only [serialErrorStep, withOlderOutputs_conn]
    split
    · exact closeStep_ignoresOlderOutputs so no ev s
    · rfl

/-! ### The steps -/

section
variable (so no : List Byte) (ev : List Event)

/-- Whether A_NET may take the byte depends on no stream. -/
theorem netStep_withOlderOutputs (b : Byte) {body : State → State} (hb : IgnoresOlderOutputs body) (s : State) :
    netStep b body (withOlderOutputs so no ev s) = mapNext (withOlderOutputs so no ev) (netStep b body s) := by
  unfold netStep
  rw [withOlderOutputs_haltReason, withOlderOutputs_conn]
  split
  · rfl
  · split
    · rw [sendSo_ignoresOlderOutputs, hb]; rfl
    · rfl

/-- Whether A_SER may take the byte depends on no stream. -/
theorem serStep_withOlderOutputs {body : State → State} (hb : IgnoresOlderOutputs body) (s : State) :
    serStep body (withOlderOutputs so no ev s) = mapNext (withOlderOutputs so no ev) (serStep body s) := by
  unfold serStep
  rw [withOlderOutputs_haltReason]
  split
  · rfl
  · rw [hb]; rfl

theorem exec_net_withOlderOutputs {i : Instr} (hp : i.port = .ni) (s : State) :
    exec i (withOlderOutputs so no ev s) = mapNext (withOlderOutputs so no ev) (exec i s) := by
  rw [exec_net hp, exec_net hp, netStep_withOlderOutputs so no ev _ (netBody_ignoresOlderOutputs i)]

theorem exec_rdbk_withOlderOutputs (v : Byte) (s : State) :
    exec (.rdbk v) (withOlderOutputs so no ev s) = mapNext (withOlderOutputs so no ev) (exec (.rdbk v) s) :=
  serStep_withOlderOutputs so no ev ((forward_ignoresOlderOutputs v).comp (observe_ignoresOlderOutputs v)) s

/-- Only a successful open would clear the streams (R125). -/
theorem perform_withOlderOutputs {i : Input} (hi : ∀ ok, i ≠ .openResult ok) (s : State) :
    perform i (withOlderOutputs so no ev s) = mapNext (withOlderOutputs so no ev) (perform i s) := by
  cases i with
  | netByte b => exact exec_net_withOlderOutputs so no ev (decodeNet_port b) s
  | serByte v => exact exec_rdbk_withOlderOutputs so no ev v s
  | accept => rfl
  | close c => exact congrArg Host.Outcome.next (closeStep_ignoresOlderOutputs so no ev s)
  | stop => rfl
  | serialError => exact congrArg Host.Outcome.next (serialErrorStep_ignoresOlderOutputs _ so no ev s)
  | openResult ok => exact absurd rfl (hi ok)

theorem idleStep_withOlderOutputs (s : State) :
    idleStep (withOlderOutputs so no ev s) = mapNext (withOlderOutputs so no ev) (idleStep s) := by
  unfold idleStep
  rw [withOlderOutputs_haltReason]
  split <;> rfl

/-- The choice of the next input depends on no stream, and in a started block it is not the outcome of the open. -/
theorem step_withOlderOutputs {s : State} (ho : s.serial = .opened) :
    step (withOlderOutputs so no ev s) = mapNext (withOlderOutputs so no ev) (step s) := by
  have hnext : nextInput (withOlderOutputs so no ev s) (withOlderOutputs so no ev s).inputs = nextInput s s.inputs :=
    nextInput_congr (withOlderOutputs_admits so no ev s) _
  unfold step blockStep
  rw [hnext]
  split
  · exact idleStep_withOlderOutputs so no ev s
  · rename_i i rest _
    rw [withOlderOutputs_admits]
    split
    · rename_i htake
      have hi : ∀ ok, i ≠ .openResult ok := fun ok e => openResult_not_taken ho ok (e ▸ htake)
      exact perform_withOlderOutputs so no ev hi { s with inputs := rest }
    · rfl
    · rfl

end

/-- The state with nothing written out yet. -/
def withoutOutputs (s : State) : State := { s with so := [], no := [], ev := [] }

theorem withOlderOutputs_withoutOutputs (s : State) :
    withOlderOutputs s.so s.no s.ev (withoutOutputs s) = s := by
  simp [withOlderOutputs, withoutOutputs]

theorem mapNext_eq_next {f : State → State} {o : Host.Outcome State Fault Refusal} {t : State}
    (h : mapNext f o = .next t) : ∃ u, o = .next u ∧ t = f u := by
  cases o with
  | next u => cases h; exact ⟨u, rfl, rfl⟩
  | fault r => cases h
  | refused r => cases h

/-- What a step appends is what it writes out from empty streams. -/
theorem step_appends {s t : State} (ho : s.serial = .opened) (h : step s = .next t) :
    ∃ so no ev, t.so = s.so ++ so ∧ t.no = s.no ++ no ∧ t.ev = s.ev ++ ev := by
  rw [← withOlderOutputs_withoutOutputs s, step_withOlderOutputs _ _ _ (s := withoutOutputs s) ho] at h
  obtain ⟨u, -, rfl⟩ := mapNext_eq_next h
  exact ⟨u.so, u.no, u.ev, rfl, rfl, rfl⟩

/-- Settles O53: the streams start empty, and every step of a started block commutes with older contents before them. -/
theorem outputsAreAppendedAndNeverRead : Obligations.OutputsAreAppendedAndNeverRead :=
  ⟨rfl, rfl, rfl, fun _ _ => step_appends, fun _ so no ev ho => step_withOlderOutputs so no ev ho⟩

end Sys2Proof.Machine
end

section
/-! R35, the WRITE bytes: the test on bits 7:3, as a range of values and as the eight characters '0' to '7'. -/

namespace Sys2Proof

theorem isWriteByte_iff (b : Byte) : isWriteByte b = true ↔ b.extractLsb' 3 5 = 0b00110#5 := beq_iff_eq

theorem decodeNet_of_isWriteByte {b : Byte} (h : isWriteByte b = true) :
    decodeNet b = .write (b.getLsbD 2) (b.getLsbD 1) (b.getLsbD 0) := if_pos h

/-- Bits 7:3 are the value divided by 8, and 0b00110 is 6. -/
theorem isWriteByte_iff_toNat (b : Byte) : isWriteByte b = true ↔ 0x30 ≤ b.toNat ∧ b.toNat ≤ 0x37 := by
  have hlt : b.toNat < 256 := b.isLt
  have hbits : (b.extractLsb' 3 5).toNat = b.toNat / 8 % 32 := by
    rw [BitVec.extractLsb'_toNat, Nat.shiftRight_eq_div_pow]
  rw [isWriteByte_iff, ← BitVec.toNat_inj, hbits]
  change b.toNat / 8 % 32 = 6 ↔ _
  omega

/-- The character '0' + n is a WRITE byte. -/
theorem isWriteByte_digit {n : Nat} (hn : n < 8) : isWriteByte (BitVec.ofNat 8 (0x30 + n)) = true := by
  rw [isWriteByte_iff_toNat, BitVec.toNat_ofNat]
  omega

/-- 0x30 is 8 * 6, so adding it leaves the low three bits alone. -/
theorem digit_getLsbD (n : Nat) {i : Nat} (hn : n < 8) (hi : i < 3) :
    (BitVec.ofNat 8 (0x30 + n)).getLsbD i = n.testBit i := by
  have hi8 : i < 8 := by omega
  have hlow : (0x30 + n).testBit i = n.testBit i := by
    have h := Nat.testBit_two_pow_mul_add 6 (show n < 2 ^ 3 from hn) i
    rwa [if_pos hi] at h
  rw [BitVec.getLsbD_ofNat, hlow, decide_eq_true hi8, Bool.true_and]

/-- Settles O2: the test is the one of R35, it is the range 0x30 to 0x37, and '0' + n meets it with the low bits of n. -/
theorem writeByteCarriesItsThreeLevels : Obligations.WriteByteCarriesItsThreeLevels := by
  refine ⟨fun b h => ?_, fun b => ?_, fun n hn => ?_⟩
  · exact decodeNet_of_isWriteByte ((isWriteByte_iff b).mpr h)
  · rw [← isWriteByte_iff, isWriteByte_iff_toNat]
  · rw [decodeNet_of_isWriteByte (isWriteByte_digit hn), digit_getLsbD n hn (by decide),
      digit_getLsbD n hn (by decide), digit_getLsbD n hn (by decide)]

end Sys2Proof
end

section
/-! The Signal Decoder (40_signal_decoder.md): the table of DECODE (R43), the forwarding of every network byte (R46), the edge
detector (R48, R49) and the unknown byte (R60). -/

namespace Sys2Proof

/-- Settles O3: the decoder's rows with each instruction replaced by its action are the rows of R43, once the two reset pairs
are merged. -/
theorem decodeGivesTheActionTable : Obligations.DecodeGivesTheActionTable := by
  intro b
  simp only [decodeAction, decodeNet, beq_iff_eq, ← isWriteByte_iff_toNat, ite_or, apply_ite Instr.action, apply_ite some]
  rfl

/-- Decoding a network byte loses nothing: the instruction's own byte is the byte that arrived (R35 to R37). -/
theorem encodeByte_decodeNet (b : Byte) : encodeByte (decodeNet b) = b := by
  simp only [decodeNet, beq_iff_eq]
  split_ifs with hw hb hb hb hb hb hb hb
  exacts [writeByte_of_isWriteByte hw, hb.symm, hb.symm, hb.symm, hb.symm, hb.symm, hb.symm, hb.symm, rfl]

end Sys2Proof

namespace Sys2Proof.Machine

/-! ### The unknown byte (R60) -/

/-- Settles O29: the byte is in the remainder of R37, and the network step forwards it and emits its one record. -/
theorem unknownBytesAreForwardedAndReported : Obligations.UnknownBytesAreForwardedAndReported :=
  fun _ _ hs hw => ⟨decodeNet_unknown hw, exec_net_of_ready rfl hs⟩

/-! ### The edge detector (R48, R49) -/

theorem modeOrDataDiffer_iff {old new : Sig} :
    modeOrDataDiffer old new = true ↔ new.mode ≠ old.mode ∨ new.data ≠ old.data := by
  simp [modeOrDataDiffer]

/-- With the mode and data levels already stored there is nothing to report. -/
theorem changeReport_of_same {old new : Sig} (hm : new.mode = old.mode) (hd : new.data = old.data) :
    changeReport old new = [] := by
  simp [changeReport, changedOnEdge, modeOrDataDiffer, hm, hd]

/-- A WRITE byte on a rising edge from one of the 16 states: the change report, then the record of the transition, and on
`TAP` and the DR-in and IR-in logs the effect of one update. -/
theorem netBody_write_edge {m d : Bool} {s : State} {t : TapState} (b : Byte) (hf : s.fatal = false)
    (hclk : s.sig.clk = false) (ht : s.tap = .state t) :
    (netBody (.write true m d) (s.sendSo b)).ev =
      s.ev ++ changeReport s.sig ⟨true, m, d⟩ ++ transitionEvents t (tapNext t m) ∧
    (netBody (.write true m d) (s.sendSo b)).tap = (tapUpdate m d s).tap ∧
    (netBody (.write true m d) (s.sendSo b)).drin = (tapUpdate m d s).drin ∧
    (netBody (.write true m d) (s.sendSo b)).irin = (tapUpdate m d s).irin := by
  have he : risingEdge (s.sendSo b).sig (writeTriple true m d) = true := risingEdge_iff.mpr ⟨hclk, rfl⟩
  rw [netBody, signalArm_edge (s := s.sendSo b) hf he ht, tapUpdate_state ht]
  exact ⟨rfl, rfl, rfl, rfl⟩

/-- A WRITE byte without a rising edge forwards its byte and stores its triple, and does nothing else. -/
theorem netBody_write_noEdge {c m d : Bool} {s : State} (b : Byte) (hf : s.fatal = false)
    (h : s.sig.clk = true ∨ c = false) :
    netBody (.write c m d) (s.sendSo b) = { s.sendSo b with sig := ⟨c, m, d⟩ } := by
  have he : risingEdge (s.sendSo b).sig (writeTriple c m d) = false := by
    obtain hclk | rfl := h
    · simp [risingEdge, hclk]
    · simp [risingEdge, writeTriple]
  exact signalArm_noEdge (s := s.sendSo b) hf he

/-- Settles O11: on a rising edge the report is the record or nothing, as the levels differ or not; without one only SO and SIG
are written. -/
theorem risingEdgeReportsThenUpdatesOnce : Obligations.RisingEdgeReportsThenUpdatesOnce := by
  intro c m d s t hs ht
  have hf : s.fatal = false := hs.2.1
  refine ⟨_, exec_net_of_ready rfl hs, ?_, ?_, fun h => ?_⟩
  · rintro ⟨hclk, rfl, hne⟩
    have hreport : changeReport s.sig ⟨true, m, d⟩ = [.changedOnEdge s.sig ⟨true, m, d⟩] :=
      changeReport_of_differ (Bool.and_eq_true_iff.mpr ⟨risingEdge_iff.mpr ⟨hclk, rfl⟩, modeOrDataDiffer_iff.mpr hne⟩)
    rw [← hreport]
    exact netBody_write_edge _ hf hclk ht
  · rintro ⟨hclk, rfl, hm, hd⟩
    have hreport : changeReport s.sig ⟨true, m, d⟩ = [] := changeReport_of_same hm hd
    have hedge := netBody_write_edge (m := m) (d := d) (writeByte true m d) hf hclk ht
    rwa [hreport, List.append_nil] at hedge
  · rw [netBody_write_noEdge _ hf h]
    exact ⟨rfl, rfl, rfl, rfl⟩

/-! ### Every network byte is forwarded once (R46) -/

/-- After forwarding, a network instruction writes nothing more to SO, and leaves the trace and what decides whether A_NET may
step, except FATAL (R61). -/
theorem netBody_frame (i : Instr) (s : State) :
    (netBody i s).so = s.so ∧ (netBody i s).inputs = s.inputs ∧ (netBody i s).conn = s.conn ∧
    (netBody i s).stopped = s.stopped ∧ (netBody i s).serial = s.serial := by
  cases i with
  | write c m d =>
    obtain ⟨-, -, -, -, hconn, hstopped, hso, -, hserial, hinputs⟩ := signalArm_frame (writeTriple c m d) s
    exact ⟨hso, hinputs, hconn, hstopped, hserial⟩
  | _ => exact ⟨rfl, rfl, rfl, rfl, rfl⟩

/-- Only a `TAP` value outside the 16 states makes a network instruction raise the fatal error (R71, R115). -/
theorem netBody_notFatal (i : Instr) {s : State} (hf : s.fatal = false) (hl : TapLegal s) :
    (netBody i s).fatal = false := by
  cases i with
  | write c m d =>
    rw [netBody]
    obtain ⟨-, e⟩ | ⟨t, -, -, e⟩ | ⟨k, -, hk, -⟩ := signalArm_cases (new := writeTriple c m d) hf
    · rw [e]; exact hf
    · rw [e]; exact hf
    · rw [TapLegal, hk] at hl
      cases hl
  | _ => exact hf

/-- A network byte at the head of the trace is taken: it is consumed and forwarded, and from one of the 16 TAP states A_NET may
take the next byte as well. -/
theorem step_netByte {s : State} {b : Byte} {rest : List Input} (hs : NetReady s) (hi : s.inputs = .netByte b :: rest) :
    ∃ t, step s = .next t ∧ t.so = s.so ++ [b] ∧ t.inputs = rest ∧ (TapLegal s → NetReady t) := by
  have ⟨hconn, hser⟩ := hs
  have ⟨hfatal, hstopped, hserial⟩ := hser
  have htake : s.admits (.netByte b) = .take := by simp [admits_of_serReady hser, Conn.admits, hconn]
  have hstep : step s = .next (netBody (decodeNet b) (State.sendSo b { s with inputs := rest })) := by
    rw [step_take hi htake]
    have h := exec_net_of_ready (decodeNet_port b) (s := { s with inputs := rest }) hs
    rwa [encodeByte_decodeNet] at h
  obtain ⟨eso, einputs, econn, estopped, eserial⟩ :=
    netBody_frame (decodeNet b) (State.sendSo b { s with inputs := rest })
  exact ⟨_, hstep, eso, einputs, fun hl =>
    ⟨econn.trans hconn, netBody_notFatal _ hfatal hl, estopped.trans hstopped, eserial.trans hserial⟩⟩

/-- One step per byte forwards any string of network bytes in arrival order. -/
theorem run_netTrace (bs : List Byte) {s : State} {rest : List Input} (hs : NetReady s) (hl : TapLegal s)
    (hi : s.inputs = netTrace bs ++ rest) :
    ∃ t, run bs.length s = .next t ∧ t.so = s.so ++ bs ∧ t.inputs = rest := by
  induction bs generalizing s with
  | nil => exact ⟨s, rfl, (List.append_nil _).symm, hi⟩
  | cons b bs ih =>
    obtain ⟨u, hstep, huso, huin, hu⟩ := step_netByte hs hi
    obtain ⟨t, hrun, htso, htin⟩ := ih (hu hl) (step_tapLegal hl hstep) huin
    refine ⟨t, (run_of_step hstep).trans hrun, ?_, htin⟩
    rw [htso, huso, List.append_assoc, List.singleton_append]

/-- Settles O33: a step for one byte, an induction over the string for the order. -/
theorem everyNetworkByteIsForwardedOnce : Obligations.EveryNetworkByteIsForwardedOnce := by
  refine ⟨fun s b rest hs hi => ?_, fun _ bs _ => run_netTrace bs⟩
  obtain ⟨t, hstep, hso, hin, -⟩ := step_netByte hs hi
  exact ⟨t, hstep, hso, hin⟩

end Sys2Proof.Machine
end

section
/-! The TAP state machine (41_tap_fsm.md): the table (R63), the bounded append (R64), the silent updates (R70) and the rules of
the states that shift nothing (R72 to R74, R77 to R81, R84 to R87). -/

namespace Sys2Proof.Machine

/-! ### The bounded append (R64) -/

/-- Dropping from the head leaves the tail alone, so the last element is the one just put there. -/
theorem takeLast_succ_concat {α : Type} (n : Nat) (l : List α) (x : α) :
    takeLast (n + 1) (l ++ [x]) = takeLast n l ++ [x] := by
  rw [takeLast, List.length_append, List.length_singleton, Nat.add_sub_add_right,
    List.drop_append_of_le_length (Nat.sub_le _ _), takeLast]

/-- Settles O20: the append is defined with the last 79 elements; the two boundary cases are those of the bound. -/
theorem boundedAppendDropsOnlyTheHead : Obligations.BoundedAppendDropsOnlyTheHead :=
  fun l x => ⟨rfl, (takeLast_succ_concat 79 l x).symm, bappend_of_lt x, bappend_of_full x⟩

/-! ### The transition table (R63) -/

/-- The row of a state holds its two successors. -/
theorem tapRow_mem_tapTable (t : TapState) : (t, tapNext t true, tapNext t false) ∈ tapTable := by
  cases t <;> decide

/-- Each row of the table is read by the mode level: the first successor for m = 1, the second for m = 0. -/
theorem tapNext_of_mem_tapTable : ∀ r ∈ tapTable, ∀ m : Bool, tapNext r.1 m = if m then r.2.1 else r.2.2 := by
  decide

/-- The six updates that keep the state (R70). -/
theorem tapNext_eq_self_iff (t : TapState) (m : Bool) : tapNext t m = t ↔
    (t = .reset ∧ m = true) ∨ (t ∈ [TapState.idle, .drshift, .drpause, .irshift, .irpause] ∧ m = false) := by
  cases t <;> cases m <;> decide

/-- The two updates that enter DREXIT1 (R68). -/
theorem tapNext_eq_drexit1_iff (t : TapState) (m : Bool) :
    tapNext t m = .drexit1 ↔ (t = .drcapture ∨ t = .drshift) ∧ m = true := by
  cases t <;> cases m <;> decide

/-- The two updates that enter IREXIT1 (R69). -/
theorem tapNext_eq_irexit1_iff (t : TapState) (m : Bool) :
    tapNext t m = .irexit1 ↔ (t = .ircapture ∨ t = .irshift) ∧ m = true := by
  cases t <;> cases m <;> decide

/-! ### The logs and the record of an update (R65 to R70) -/

/-- Outside DRCAPTURE and DRSHIFT an update appends to DRIN neither a bit nor a separator. -/
theorem drinAfter_of_not_shifting {t : TapState} (m d : Bool) (l : List ShiftChar) (hc : t ≠ .drcapture)
    (hs : t ≠ .drshift) : drinAfter t m d l = l := by
  simp [drinAfter, appendSeparator, appendBit, tapNext_eq_drexit1_iff, hc, hs]

/-- Outside IRCAPTURE and IRSHIFT an update appends to IRIN neither a bit nor a separator. -/
theorem irinAfter_of_not_shifting {t : TapState} (m d : Bool) (l : List ShiftChar) (hc : t ≠ .ircapture)
    (hs : t ≠ .irshift) : irinAfter t m d l = l := by
  simp [irinAfter, appendSeparator, appendBit, tapNext_eq_irexit1_iff, hc, hs]

theorem transitionEvents_of_ne {t u : TapState} (h : u ≠ t) : transitionEvents t u = [.transition t u] := if_neg h

@[simp] theorem transitionEvents_self (t : TapState) : transitionEvents t t = [] := if_pos rfl

/-- Settles O23: the record of an update is decided by whether the successor differs; the silent updates are read off the table,
and the two in a shift state append their bit all the same. -/
theorem transitionsAreReportedExactlyOnChange : Obligations.TransitionsAreReportedExactlyOnChange := by
  refine ⟨fun m d s t ht => ⟨fun hne => ?_, fun heq => ?_⟩, tapNext_eq_self_iff, fun d s => ⟨fun ht => ?_, fun ht => ?_⟩⟩
  · rw [tapUpdate_state ht, transitionEvents_of_ne hne]
  · rw [tapUpdate_state ht, heq, transitionEvents_self, List.append_nil]
  · rw [tapUpdate_state ht]; rfl
  · rw [tapUpdate_state ht]; rfl

/-! ### A rising edge -/

/-- On a rising edge the record of a change of mode or data is decided by these two levels alone (R48). -/
theorem changeReport_of_clk_low {old : Sig} (m d : Bool) (h : old.clk = false) :
    changeReport old ⟨true, m, d⟩ = edgeReport old m d := by
  simp [changeReport, changedOnEdge, risingEdge, modeOrDataDiffer, edgeReport, h]

/-- The whole effect of a WRITE byte on a rising edge from one of the 16 states: the byte is forwarded, the triple stored, and
one update run after the change report (R46, R48 to R50, R65). -/
theorem exec_write_edge {s : State} {t : TapState} (m d : Bool) (hs : NetReady s) (ht : s.tap = .state t)
    (hclk : s.sig.clk = false) :
    exec (.write true m d) s = .next
      { s with
        so := s.so ++ [writeByte true m d]
        sig := ⟨true, m, d⟩
        drin := drinAfter t m d s.drin
        irin := irinAfter t m d s.irin
        tap := .state (tapNext t m)
        ev := s.ev ++ edgeReport s.sig m d ++ transitionEvents t (tapNext t m) } := by
  have hf : s.fatal = false := hs.2.1
  have he : risingEdge s.sig (writeTriple true m d) = true := risingEdge_iff.mpr ⟨hclk, rfl⟩
  rw [← changeReport_of_clk_low m d hclk, exec_net_of_ready rfl hs]
  exact congrArg Host.Outcome.next (signalArm_edge (s := s.sendSo (writeByte true m d)) hf he ht)

/-- Settles O16: the step moves `TAP` by `tapNext`, which is the table read by rows. -/
theorem tapMovesByTheTable : Obligations.TapMovesByTheTable := by
  refine ⟨fun t => ⟨_, tapRow_mem_tapTable t, rfl⟩, fun r hr d s hs ht hclk => ⟨?_, ?_⟩⟩
  · exact ⟨_, exec_write_edge true d hs ht hclk, congrArg TapReg.state (tapNext_of_mem_tapTable r hr true)⟩
  · exact ⟨_, exec_write_edge false d hs ht hclk, congrArg TapReg.state (tapNext_of_mem_tapTable r hr false)⟩

/-- Settles O17: the step runs one update, which from these states appends nothing to either log. -/
theorem statesThatShiftNothingLeaveTheLogs : Obligations.StatesThatShiftNothingLeaveTheLogs := by
  intro r hr hshift m d s hs ht hclk
  simp only [List.mem_cons, List.not_mem_nil, or_false, not_or] at hshift
  obtain ⟨hdrcapture, hdrshift, hircapture, hirshift⟩ := hshift
  rw [← tapNext_of_mem_tapTable r hr m]
  exact ⟨_, exec_write_edge m d hs ht hclk, rfl, drinAfter_of_not_shifting m d _ hdrcapture hdrshift,
    irinAfter_of_not_shifting m d _ hircapture hirshift, rfl⟩

end Sys2Proof.Machine
end

section
/-! The readback (42_readback.md): the bounded prepend (R89), the tracker by direction (R91, R92), the seen sets (R94) and the
forwarding of the raw byte (R96). -/

namespace Sys2Proof.Machine

/-! ### The bounded prepend (R89) -/

/-- At the bound a prepend drops exactly the oldest element. -/
theorem bprepend_of_full {α : Type} {l : List α} (x : α) (h : l.length = Config.logBound) :
    bprepend l x = x :: l.dropLast := by
  rw [List.dropLast_eq_take, h]
  rfl

/-- Settles O21: the prepend is defined with the first 80 elements; the two boundary cases are those of the bound. -/
theorem boundedPrependDropsOnlyTheTail : Obligations.BoundedPrependDropsOnlyTheTail :=
  fun _ x => ⟨rfl, bprepend_of_lt x, bprepend_of_full x⟩

/-! ### The tracker in the two shift states (R91, R92) -/

/-- In DRSHIFT the tracker writes the DR side and no other log or set. -/
theorem observe_of_drshift (v : Byte) {s : State} (h : s.tap = .state .drshift) :
    observe v s =
      { s with
        drseen := insertSeen v s.drseen
        drout := bprepend s.drout v
        ev := s.ev ++ [.snapshot .dr (bprepend s.drout v) (insertSeen v s.drseen) s.irseen] } := by
  simp [observe, TapReg.shiftState?, h]

/-- In IRSHIFT the tracker writes the IR side and no other log or set. -/
theorem observe_of_irshift (v : Byte) {s : State} (h : s.tap = .state .irshift) :
    observe v s =
      { s with
        irseen := insertSeen v s.irseen
        irout := bprepend s.irout v
        ev := s.ev ++ [.snapshot .ir (bprepend s.irout v) s.drseen (insertSeen v s.irseen)] } := by
  simp [observe, TapReg.shiftState?, h]

/-- Settles O36: RDBK runs the tracker, which in a shift state inserts and prepends on the side of that state; the forwarding
after it writes neither. -/
theorem readbackIsRecordedInItsDirection : Obligations.ReadbackIsRecordedInItsDirection := by
  refine fun v s hs => ⟨fun ht => ⟨_, exec_rdbk_of_ready v hs, ?_⟩, fun ht => ⟨_, exec_rdbk_of_ready v hs, ?_⟩⟩
  · rw [observe_of_drshift v ht]
    exact ⟨fun _ => mem_insertSeen, rfl, rfl, rfl⟩
  · rw [observe_of_irshift v ht]
    exact ⟨fun _ => mem_insertSeen, rfl, rfl, rfl⟩

/-! ### The forwarding (R96) -/

@[simp] theorem observe_conn (v : Byte) (s : State) : (observe v s).conn = s.conn :=
  congrArg NetView.conn (forward_observe_frame v s).1

@[simp] theorem observe_no (v : Byte) (s : State) : (observe v s).no = s.no := by
  obtain ⟨-, e⟩ | ⟨-, e⟩ | ⟨-, e⟩ := observe_cases v s
  · rw [e]
  · rw [e]
  · rw [e, State.emit_no]

/-- The tracker never reads the Connection Slot. -/
theorem observe_withConn (v : Byte) (c : Conn) (s : State) :
    observe v { s with conn := c } = { observe v s with conn := c } := by
  unfold observe
  dsimp only
  split <;> rfl

theorem forward_of_peer (v : Byte) {s : State} (h : s.conn = .peer) : forward v s = s.sendNo v := by
  simp [forward, forwarded, State.sendNo, h]

theorem forward_of_noPeer (v : Byte) {s : State} (h : s.conn = .none) : forward v s = s := by
  have hnone : forwarded s.conn v = [] := by rw [h]; rfl
  rw [forward, hnone, List.append_nil]

/-- Settles O37: the slot decides the forwarding and nothing of the tracker before it, which leaves NO alone. -/
theorem readbackIsForwardedOnlyToAPeer : Obligations.ReadbackIsForwardedOnlyToAPeer := by
  refine fun v s hs => ⟨_, exec_rdbk_of_ready v hs, fun hp => ?_, fun hn => ?_, ?_⟩
  · rw [forward_of_peer v ((observe_conn v s).trans hp), State.sendNo_no, observe_no]
  · rw [forward_of_noPeer v ((observe_conn v s).trans hn), observe_no]
  · rw [exec_rdbk_of_ready v (s := { s with conn := .none }) hs, observe_withConn, forward_of_noPeer v rfl, ← observe_no v s]
    rfl

/-! ### The seen sets (R94) -/

theorem subset_insertSeen (v : Byte) (l : List Byte) : l ⊆ insertSeen v l := fun _ hw => mem_insertSeen.mpr (.inr hw)

/-- In canonical form a value already there is met before any greater one, so the set stays as it is. -/
theorem insertSeen_of_mem {v : Byte} {l : List Byte} (hl : SeenCanonical l) (hv : v ∈ l) : insertSeen v l = l := by
  induction l with
  | nil => cases hv
  | cons x r ih =>
    obtain ⟨hx, hr⟩ := List.pairwise_cons.mp hl
    obtain rfl | hvr := List.mem_cons.mp hv
    · simp [insertSeen]
    · have hlt : x.toNat < v.toNat := hx v hvr
      have hne : v ≠ x := fun e => Nat.lt_irrefl _ (e ▸ hlt)
      rw [insertSeen, if_neg (Nat.lt_asymm hlt), if_neg hne, ih hr hvr]

/-- Every value of a seen set of `s` is in the seen set of the same direction of `t`. -/
def SeenGrows (s t : State) : Prop := s.drseen ⊆ t.drseen ∧ s.irseen ⊆ t.irseen

theorem seenGrows_of_eq {s t : State} (hdr : t.drseen = s.drseen) (hir : t.irseen = s.irseen) : SeenGrows s t :=
  ⟨hdr ▸ List.Subset.refl _, hir ▸ List.Subset.refl _⟩

/-- No network instruction writes a seen set (R21, R61). -/
theorem netBody_seen (i : Instr) (s : State) :
    (netBody i s).drseen = s.drseen ∧ (netBody i s).irseen = s.irseen := by
  cases i with
  | write c m d =>
    obtain ⟨-, -, hdrseen, hirseen, -⟩ := signalArm_frame (writeTriple c m d) s
    exact ⟨hdrseen, hirseen⟩
  | _ => exact ⟨rfl, rfl⟩

/-- The tracker at most inserts the byte into the set of one direction. -/
theorem observe_seenGrows (v : Byte) (s : State) : SeenGrows s (observe v s) := by
  obtain ⟨-, e⟩ | ⟨-, e⟩ | ⟨-, e⟩ := observe_cases v s <;> rw [e]
  · exact ⟨subset_insertSeen v _, List.Subset.refl _⟩
  · exact ⟨List.Subset.refl _, subset_insertSeen v _⟩
  · exact seenGrows_of_eq rfl rfl

theorem exec_net_seenGrows {i : Instr} (hp : i.port = .ni) {s t : State} (h : exec i s = .next t) : SeenGrows s t := by
  obtain ⟨-, rfl⟩ := exec_net_cases hp h
  obtain ⟨hdr, hir⟩ := netBody_seen i (s.sendSo (encodeByte i))
  exact seenGrows_of_eq hdr hir

theorem exec_rdbk_seenGrows {v : Byte} {s t : State} (h : exec (.rdbk v) s = .next t) : SeenGrows s t := by
  obtain ⟨-, rfl⟩ := exec_rdbk_cases h
  exact observe_seenGrows v s

/-- Of all a step of a started block can do, only the serial byte step writes a seen set. -/
theorem step_seenGrows {s t : State} (ho : s.serial = .opened) (h : step s = .next t) : SeenGrows s t := by
  obtain rfl | ⟨rest, rfl⟩ | ⟨b, rest, -, hb⟩ | ⟨v, rest, -, hv⟩ | ⟨rest, -, -, rfl⟩ | ⟨rest, -, rfl⟩ | ⟨rest, rfl⟩ :=
    step_cases_opened ho h
  · exact seenGrows_of_eq rfl rfl
  · exact seenGrows_of_eq rfl rfl
  · exact exec_net_seenGrows (s := { s with inputs := rest }) (decodeNet_port b) hb
  · exact exec_rdbk_seenGrows (s := { s with inputs := rest }) hv
  · exact seenGrows_of_eq rfl rfl
  · exact seenGrows_of_eq rfl rfl
  · exact seenGrows_of_eq rfl rfl

/-- Settles O38: insertion as membership, a repeat by the canonical order, and the steps of a started block case by case. -/
theorem seenSetsOnlyGrow : Obligations.SeenSetsOnlyGrow := by
  refine ⟨fun _ _ _ => mem_insertSeen, fun _ _ => insertSeen_of_mem, fun _ _ ho h => ?_⟩
  obtain ⟨hdr, hir⟩ := step_seenGrows ho h
  exact ⟨fun _ hw => hdr hw, fun _ hw => hir hw⟩

end Sys2Proof.Machine
end

section
/-! The exceptions (60_exceptions.md): the anomalies an instruction reports (R111 to R114), as one list read off the instruction
and the state before it, and the silence of the inputs that carry no instruction. -/

namespace Sys2Proof.Machine

/-! ### What each instruction reports as an anomaly -/

/-- The report of a read outside the shift states: one record with `TAP`, none in DRSHIFT and IRSHIFT (R112, R114). -/
def reportOutsideShift (report : TapReg → Event) (t : TapReg) : List Event :=
  if t.shiftState? = none then [report t] else []

/-- The anomalies an instruction reports in the state before its step (R111 to R114). -/
def anomalyReport (s : State) : Instr → List Event
  | .write c m d => changeReport s.sig (writeTriple c m d)
  | .read => reportOutsideShift .readOutOfState s.tap
  | .unknown v => [.unknownChar v]
  | .rdbk _ => reportOutsideShift .unexpectedRead s.tap
  | _ => []

theorem mem_reportOutsideShift {report : TapReg → Event} {t : TapReg} {e : Event} :
    e ∈ reportOutsideShift report t ↔ t ≠ .state .drshift ∧ t ≠ .state .irshift ∧ e = report t := by
  rw [reportOutsideShift, ← and_assoc, ← shiftState?_eq_none]
  split <;> simp [*]

theorem mem_changeReport {old new : Sig} {e : Event} :
    e ∈ changeReport old new ↔
      old.clk = false ∧ new.clk = true ∧ (new.mode ≠ old.mode ∨ new.data ≠ old.data) ∧ e = .changedOnEdge old new := by
  have hcond : changedOnEdge old new = true ↔
      old.clk = false ∧ new.clk = true ∧ (new.mode ≠ old.mode ∨ new.data ≠ old.data) := by
    rw [changedOnEdge, Bool.and_eq_true, risingEdge_iff, modeOrDataDiffer_iff, and_assoc]
  rw [changeReport, ← and_assoc (a := new.clk = true), ← and_assoc, ← hcond]
  split <;> simp [*]

/-- R111: the report holds an UNKNOWN_CHAR exactly for UNKNOWN. -/
theorem unknownChar_mem_anomalyReport {s : State} {i : Instr} {v : Byte} :
    .unknownChar v ∈ anomalyReport s i ↔ i = .unknown v := by
  cases i with
  | unknown w => simp [anomalyReport, eq_comm]
  | _ => simp [anomalyReport, mem_changeReport, mem_reportOutsideShift]

/-- R112: the report holds a READ_OUT_OF_STATE exactly for READ outside the shift states. -/
theorem readOutOfState_mem_anomalyReport {s : State} {i : Instr} {x : TapReg} :
    .readOutOfState x ∈ anomalyReport s i ↔
      i = .read ∧ s.tap ≠ .state .drshift ∧ s.tap ≠ .state .irshift ∧ x = s.tap := by
  cases i <;> simp [anomalyReport, mem_changeReport, mem_reportOutsideShift]

/-- R113: the report holds a CHANGED_ON_EDGE exactly for a WRITE that makes a rising edge with a changed level. -/
theorem changedOnEdge_mem_anomalyReport {s : State} {i : Instr} {a b : Sig} :
    .changedOnEdge a b ∈ anomalyReport s i ↔
      i = .write b.clk b.mode b.data ∧ s.sig.clk = false ∧ b.clk = true ∧
      (b.mode ≠ s.sig.mode ∨ b.data ≠ s.sig.data) ∧ a = s.sig := by
  cases i with
  | write c m d =>
    obtain ⟨c', m', d'⟩ := b
    simp only [anomalyReport, mem_changeReport, writeTriple, Event.changedOnEdge.injEq, Sig.mk.injEq, Instr.write.injEq]
    constructor
    · rintro ⟨hclk, hc, hne, ha, rfl, rfl, rfl⟩
      exact ⟨⟨rfl, rfl, rfl⟩, hclk, hc, hne, ha⟩
    · rintro ⟨⟨rfl, rfl, rfl⟩, hclk, hc, hne, ha⟩
      exact ⟨hclk, hc, hne, ha, rfl, rfl, rfl⟩
  | _ => simp [anomalyReport, mem_reportOutsideShift]

/-- R114: the report holds an UNEXPECTED_READ exactly for RDBK outside the shift states. -/
theorem unexpectedRead_mem_anomalyReport {s : State} {i : Instr} {x : TapReg} :
    .unexpectedRead x ∈ anomalyReport s i ↔
      (∃ v, i = .rdbk v) ∧ s.tap ≠ .state .drshift ∧ s.tap ≠ .state .irshift ∧ x = s.tap := by
  cases i <;> simp [anomalyReport, mem_changeReport, mem_reportOutsideShift]

/-! ### The events an instruction adds -/

/-- The event stream `ev'` is `ev` with new records, whose anomalies are exactly those of the list `anomalies`. -/
def AddsAnomalies (anomalies ev ev' : List Event) : Prop :=
  ∃ new, ev' = ev ++ new ∧ ∀ e, e.kindClass = .anomaly → (e ∈ new ↔ e ∈ anomalies)

/-- New records that are all of other classes add no anomaly, also after the anomalies of a list. -/
theorem addsAnomalies_append {anomalies ev others : List Event} (h : ∀ e ∈ others, e.kindClass ≠ .anomaly) :
    AddsAnomalies anomalies ev (ev ++ anomalies ++ others) := by
  refine ⟨anomalies ++ others, List.append_assoc .., fun e he => ?_⟩
  rw [List.mem_append, or_iff_left fun hm => h e hm he]

theorem addsAnomalies_exactly (anomalies ev : List Event) : AddsAnomalies anomalies ev (ev ++ anomalies) :=
  ⟨anomalies, rfl, fun _ _ => Iff.rfl⟩

/-- One record of another class adds no anomaly. -/
theorem addsAnomalies_other {ev : List Event} {e : Event} (h : e.kindClass ≠ .anomaly) : AddsAnomalies [] ev (ev ++ [e]) := by
  simpa using addsAnomalies_append (anomalies := []) (ev := ev) (List.forall_mem_singleton.mpr h)

theorem transitionEvents_notAnomaly {t u : TapState} : ∀ e ∈ transitionEvents t u, e.kindClass ≠ .anomaly := by
  unfold transitionEvents
  split <;> simp [Event.kindClass]

/-- The SIGNAL arm adds the change report, and after it a TRANSITION or FATAL_INTERNAL record at most. -/
theorem signalArm_addsAnomalies {new : Sig} {s : State} (hf : s.fatal = false) :
    AddsAnomalies (changeReport s.sig new) s.ev (signalArm new s).ev := by
  obtain ⟨he, e⟩ | ⟨t, -, -, e⟩ | ⟨k, -, -, e⟩ := signalArm_cases (new := new) hf <;> rw [e]
  · have hnone : changeReport s.sig new = [] := by simp [changeReport, changedOnEdge, he]
    simpa [hnone] using addsAnomalies_exactly [] s.ev
  · exact addsAnomalies_append transitionEvents_notAnomaly
  · exact addsAnomalies_append (by simp [Event.kindClass])

/-- READ adds the request in a shift state and the anomaly in any other. -/
theorem readEvent_addsAnomalies (t : TapReg) (ev : List Event) :
    AddsAnomalies (reportOutsideShift .readOutOfState t) ev (ev ++ [readEvent t]) := by
  unfold readEvent reportOutsideShift
  cases t.shiftState? with
  | none => exact addsAnomalies_exactly _ _
  | some u => exact addsAnomalies_other (by simp [Event.kindClass])

/-- The tracker adds the snapshot in a shift state and the anomaly in any other. -/
theorem observe_addsAnomalies (v : Byte) (s : State) :
    AddsAnomalies (reportOutsideShift .unexpectedRead s.tap) s.ev (observe v s).ev := by
  obtain ⟨ht, e⟩ | ⟨ht, e⟩ | ⟨ht, e⟩ := observe_cases v s <;> rw [e, reportOutsideShift]
  · rw [ht]; exact addsAnomalies_other (by simp [Event.kindClass])
  · rw [ht]; exact addsAnomalies_other (by simp [Event.kindClass])
  · rw [if_pos ht]; exact addsAnomalies_exactly _ _

theorem netBody_addsAnomalies {i : Instr} (hp : i.port = .ni) {s : State} (hf : s.fatal = false) :
    AddsAnomalies (anomalyReport s i) s.ev (netBody i s).ev := by
  cases i with
  | write c m d => exact signalArm_addsAnomalies hf
  | read => exact readEvent_addsAnomalies s.tap s.ev
  | unknown v => exact addsAnomalies_exactly _ _
  | rdbk v => cases hp
  | _ => exact addsAnomalies_other (by simp [Event.kindClass])

/-- The anomalies an instruction adds are those of its report. -/
theorem exec_addsAnomalies {i : Instr} {s t : State} (h : exec i s = .next t) :
    AddsAnomalies (anomalyReport s i) s.ev t.ev := by
  cases hp : i.port with
  | ni =>
    obtain ⟨⟨-, hf, -, -⟩, rfl⟩ := exec_net_cases hp h
    exact netBody_addsAnomalies (s := s.sendSo (encodeByte i)) hp hf
  | si =>
    cases i with
    | rdbk v =>
      obtain ⟨-, rfl⟩ := exec_rdbk_cases h
      exact observe_addsAnomalies v s
    | _ => cases hp

/-! ### The inputs without an instruction -/

/-- An input without an instruction adds at most the record of a disconnection (R99, R102, R106, R107, R125). -/
theorem perform_ev_of_no_byte {j : Input} {s t : State} (hn : ∀ b, j ≠ .netByte b) (hs : ∀ v, j ≠ .serByte v)
    (h : perform j s = .next t) : ∀ e ∈ t.ev, e ∈ s.ev ∨ e = .disconnected := by
  have hclose : ∀ e ∈ (closeStep s).ev, e ∈ s.ev ∨ e = .disconnected := by simp
  cases j with
  | netByte b => exact absurd rfl (hn b)
  | serByte v => exact absurd rfl (hs v)
  | accept => cases h; exact fun _ => .inl
  | close c => cases h; exact hclose
  | stop => cases h; exact fun _ => .inl
  | serialError =>
    cases h
    obtain e | ⟨-, -, e⟩ | ⟨-, e⟩ := serialErrorStep_cases Config.serialErrorPolicy s <;> rw [e]
    · exact fun _ => .inl
    · exact hclose
    · exact fun _ => .inl
  | openResult ok =>
    cases h
    cases ok with
    | true => exact fun _ he => absurd he List.not_mem_nil
    | false => exact fun _ => .inl

/-- Settles O30: the anomalies an instruction adds are those of its report, whose members are read off by kind; the only record an
input without an instruction can add is of the transport class. -/
theorem anomaliesComeOnlyFromTheirCauses : Obligations.AnomaliesComeOnlyFromTheirCauses := by
  refine ⟨fun i s t h => ?_, fun j s t hn hs h e he hk => ?_⟩
  · obtain ⟨new, hev, hnew⟩ := exec_addsAnomalies h
    exact ⟨new, hev,
      fun _ => (hnew _ rfl).trans unknownChar_mem_anomalyReport,
      fun _ => (hnew _ rfl).trans readOutOfState_mem_anomalyReport,
      fun _ _ => (hnew _ rfl).trans changedOnEdge_mem_anomalyReport,
      fun _ => (hnew _ rfl).trans unexpectedRead_mem_anomalyReport⟩
  · obtain hold | rfl := perform_ev_of_no_byte hn hs h e he
    · exact hold
    · cases hk

end Sys2Proof.Machine
end

section
/-! Decoding and encoding (30_encoding.md): the two are inverse on the well-formed instructions of each port (R33, R35 to R39), and
the three classes of network byte (R37, R38). -/

namespace Sys2Proof

/-! ### The round trip of one byte -/

/-- The port of an instruction reads the instruction back from its byte. -/
theorem decodeByte_encodeByte {i : Instr} (h : i.wellFormed = true) : decodeByte i.port (encodeByte i) = i := by
  cases i with
  | write c m d => exact decodeNet_writeByte c m d
  | unknown v => exact decodeNet_unknown h
  | _ => rfl

theorem encodeByte_decodeByte (p : Port) (b : Byte) : encodeByte (decodeByte p b) = b := by
  cases p with
  | ni => exact encodeByte_decodeNet b
  | si => rfl

theorem decodeByte_port (p : Port) (b : Byte) : (decodeByte p b).port = p := by
  cases p with
  | ni => exact decodeNet_port b
  | si => rfl

/-- The decoder answers UNKNOWN only for the remainder of R37, so what it answers is well formed. -/
theorem decodeNet_wellFormed (b : Byte) : (decodeNet b).wellFormed = true := by
  unfold decodeNet
  split_ifs with hw
  case neg => simp_all [Instr.wellFormed, isFixedByte]
  all_goals rfl

theorem decodeByte_wellFormed (p : Port) (b : Byte) : (decodeByte p b).wellFormed = true := by
  cases p with
  | ni => exact decodeNet_wellFormed b
  | si => rfl

/-- All a byte string that decodes can be: one byte, decoded on the port, and the rest. -/
theorem decode_cases {p : Port} {bs rest : List Byte} {i : Instr} (h : decode p bs = .instr i rest) :
    ∃ b, bs = b :: rest ∧ i = decodeByte p b := by
  cases bs with
  | nil => cases h
  | cons b bs => cases h; exact ⟨b, rfl, rfl⟩

/-- Settles O5: both directions are the round trip of the one byte an instruction has. -/
theorem decodeAndEncodeAgree : Obligations.DecodeAndEncodeAgree := by
  refine ⟨fun i rest hw => ?_, fun p bs i rest h => ?_⟩
  · rw [encode, List.singleton_append, decode_cons, decodeByte_encodeByte hw]
  · obtain ⟨b, rfl, rfl⟩ := decode_cases h
    refine ⟨decodeByte_wellFormed p b, decodeByte_port p b, ?_⟩
    rw [encode, encodeByte_decodeByte, List.singleton_append]

/-- Settles O1: each word is a row of the tables of 30_encoding.md, evaluated. -/
theorem writtenOutWordsDecode : Obligations.WrittenOutWordsDecode := by
  unfold Obligations.WrittenOutWordsDecode
  decide

/-! ### The three classes of network byte -/

/-- A byte decodes to UNKNOWN exactly when UNKNOWN of it is well formed. -/
theorem decodeNet_eq_unknown_iff (b : Byte) : decodeNet b = .unknown b ↔ (Instr.unknown b).wellFormed = true :=
  ⟨fun h => h ▸ decodeNet_wellFormed b, decodeNet_unknown⟩

/-- The remainder of R37 as values: outside the WRITE range and none of the seven fixed bytes. -/
theorem unknown_wellFormed_iff_toNat (b : Byte) : (Instr.unknown b).wellFormed = true ↔
    ¬ (0x30 ≤ b.toNat ∧ b.toNat ≤ 0x37) ∧ b.toNat ≠ 0x42 ∧ b.toNat ≠ 0x62 ∧ b.toNat ≠ 0x72 ∧ b.toNat ≠ 0x74 ∧
    b.toNat ≠ 0x73 ∧ b.toNat ≠ 0x75 ∧ b.toNat ≠ 0x52 := by
  rw [← isWriteByte_iff_toNat]
  simp [Instr.wellFormed, isFixedByte, ← BitVec.toNat_inj, and_assoc]

/-- The bytes that are not UNKNOWN are the WRITE bytes and the fixed bytes, 15 together. -/
theorem count_not_unknown :
    ((List.range 256).filter fun n => !(Instr.unknown (BitVec.ofNat 8 n)).wellFormed).length = 15 := by decide

/-- Settles O4: the gaps between the WRITE range and the fixed bytes are the six ranges; the WRITE bytes and the fixed bytes are
counted, and UNKNOWN has the rest of the 256. -/
theorem everyByteIsInExactlyOneClass : Obligations.EveryByteIsInExactlyOneClass := by
  refine ⟨fun b => ?_, by decide, by decide, ?_⟩
  · have hlt : b.toNat < 256 := b.isLt
    rw [decodeNet_eq_unknown_iff, unknown_wellFormed_iff_toNat]
    omega
  · have hsplit := (List.range 256).length_eq_length_filter_add fun n => (Instr.unknown (BitVec.ofNat 8 n)).wellFormed
    rw [List.length_range, count_not_unknown] at hsplit
    omega

end Sys2Proof
end

section
/-! What the two byte steps write, side by side: the network side, the serial side, and the records each adds to EV (R21, R61, R123).
The proofs of the rules for whole steps read the fields off here. -/

namespace Sys2Proof.Machine

/-! ### The TAP state a legal `TAP` holds -/

theorem tap_of_tapLegal {s : State} (h : TapLegal s) : ∃ t, s.tap = .state t := by
  cases ht : s.tap with
  | state t => exact ⟨t, rfl⟩
  | outside k => rw [TapLegal, ht] at h; cases h

/-! ### The serial side -/

/-- What A_SER alone writes: the readback logs, the seen sets and NO (R21). -/
structure SerView where
  drout : List Byte
  irout : List Byte
  drseen : List Byte
  irseen : List Byte
  no : List Byte

/-- The serial side of a state. -/
def State.serView (s : State) : SerView := ⟨s.drout, s.irout, s.drseen, s.irseen, s.no⟩

/-- No network instruction writes the serial side. -/
theorem netBody_serView (i : Instr) (s : State) : (netBody i s).serView = s.serView := by
  cases i with
  | write c m d =>
    obtain ⟨hdrout, hirout, hdrseen, hirseen, -, -, -, hno, -, -⟩ := signalArm_frame (writeTriple c m d) s
    simp only [netBody, State.serView, hdrout, hirout, hdrseen, hirseen, hno]
  | _ => rfl

/-! ### The records a network instruction adds -/

/-- The records of the SIGNAL arm: on a rising edge the change report, then the transition or the fatal error (R48, R70, R115). -/
def signalEvents (old new : Sig) (tap : TapReg) : List Event :=
  if risingEdge old new then
    changeReport old new ++
      match tap with
      | .state t => transitionEvents t (tapNext t new.mode)
      | .outside _ => [.fatalInternal tap]
  else []

theorem signalEvents_edge {old new : Sig} (he : risingEdge old new = true) (t : TapState) :
    signalEvents old new (.state t) = changeReport old new ++ transitionEvents t (tapNext t new.mode) := if_pos he

theorem signalEvents_noEdge {old new : Sig} (he : risingEdge old new = false) (tap : TapReg) :
    signalEvents old new tap = [] := if_neg (by simp [he])

/-- The records a network instruction adds, from the stored triple and `TAP` (R52 to R60). -/
def netEvents (sig : Sig) (tap : TapReg) : Instr → List Event
  | .write c m d => signalEvents sig (writeTriple c m d) tap
  | .blinkOn => [.indicator true]
  | .blinkOff => [.indicator false]
  | .rstR => [.sysreset true]
  | .rstT => [.sysreset true]
  | .rstS => [.sysreset false]
  | .rstU => [.sysreset false]
  | .read => [readEvent tap]
  | .unknown v => [.unknownChar v]
  | .rdbk _ => []

@[simp] theorem storeSig_ev (new : Sig) (s : State) : (storeSig new s).ev = s.ev := by
  unfold storeSig
  split <;> rfl

theorem signalArm_ev (new : Sig) (s : State) : (signalArm new s).ev = s.ev ++ signalEvents s.sig new s.tap := by
  unfold signalArm signalEvents
  split
  · cases ht : s.tap with
    | state t => simp [reportChange, tapUpdate_state, ht]
    | outside k => simp [reportChange, tapUpdate_outside, ht]
  · simp

theorem netBody_ev {i : Instr} (hp : i.port = .ni) (s : State) :
    (netBody i s).ev = s.ev ++ netEvents s.sig s.tap i := by
  cases i with
  | write c m d => exact signalArm_ev _ s
  | rdbk v => cases hp
  | _ => rfl

/-! ### The record the tracker adds -/

/-- The one record of the tracker: the snapshot in a shift state, the anomaly in any other (R93, R95). -/
def readbackEvent (v : Byte) (tap : TapReg) (side : SerView) : Event :=
  match tap.shiftState? with
  | some .drshift => .snapshot .dr (bprepend side.drout v) (insertSeen v side.drseen) side.irseen
  | some .irshift => .snapshot .ir (bprepend side.irout v) side.drseen (insertSeen v side.irseen)
  | _ => .unexpectedRead tap

theorem observe_ev (v : Byte) (s : State) : (observe v s).ev = s.ev ++ [readbackEvent v s.tap s.serView] := by
  obtain ⟨ht, e⟩ | ⟨ht, e⟩ | ⟨ht, e⟩ := observe_cases v s <;> rw [e, readbackEvent]
  · rw [ht]; rfl
  · rw [ht]; rfl
  · rw [ht]; rfl

/-! ### When an instruction completes -/

/-- An instruction completes only in a running block. -/
theorem serReady_of_exec {i : Instr} {s t : State} (h : exec i s = .next t) : SerReady s := by
  cases hp : i.port with
  | ni => exact (exec_net_cases hp h).1.2
  | si =>
    cases i with
    | rdbk v => exact (exec_rdbk_cases h).1
    | _ => cases hp

/-- A block with a reason to halt answers every instruction with it. -/
theorem exec_of_halted {s : State} {f : Fault} (h : s.haltReason = some f) (i : Instr) : exec i s = .fault f := by
  cases hp : i.port with
  | ni => simp [exec_net hp, netStep, h]
  | si =>
    cases i with
    | rdbk v => simp [exec_rdbk, serStep, h]
    | _ => cases hp

end Sys2Proof.Machine
end

section
/-! The invariants of a session (R7, R2, R13, R15, R94, R115) and the event stream that tells `TAP` (R63, R70): each holds at session
start and is kept by every step, so both hold in every reachable state. -/

namespace Sys2Proof.Machine

/-! ### The fatal error does not happen -/

/-- From one of the 16 states no step sets FATAL (R115). -/
theorem step_notFatal {s t : State} (hl : TapLegal s) (hf : s.fatal = false) (h : step s = .next t) :
    t.fatal = false := by
  by_cases ho : s.serial = .opened
  · obtain rfl | ⟨rest, rfl⟩ | ⟨b, rest, -, hb⟩ | ⟨v, rest, -, hv⟩ | ⟨rest, -, -, rfl⟩ | ⟨rest, -, rfl⟩ | ⟨rest, rfl⟩ :=
      step_cases_opened ho h
    · exact hf
    · exact hf
    · obtain ⟨-, rfl⟩ := exec_net_cases (decodeNet_port b) hb
      exact netBody_notFatal _ hf hl
    · obtain ⟨-, rfl⟩ := exec_rdbk_cases hv
      exact (congrArg NetView.fatal (forward_observe_frame v _).1).trans hf
    · exact hf
    · exact hf
    · exact hf
  · obtain rfl | ⟨rest, rfl⟩ | ⟨-, ⟨rest, rfl⟩ | ⟨rest, rfl⟩ | ⟨rest, rfl⟩⟩ := step_cases_notOpened ho h
    · exact hf
    · exact hf
    · rfl
    · exact hf
    · exact hf

/-! ### The seen sets hold what was read back -/

/-- The two invariants of the readback side, which the same operations write. -/
def ReadbackKept (side : SerView) : Prop :=
  (SeenCanonical side.drseen ∧ ∀ v ∈ side.drout, v ∈ side.drseen) ∧
  (SeenCanonical side.irseen ∧ ∀ v ∈ side.irout, v ∈ side.irseen)

theorem readbackKept_iff {s : State} : ReadbackKept s.serView ↔ SeenSetsCanonical s ∧ ReadbackLogged s :=
  ⟨fun ⟨⟨hdr, hdrout⟩, hir, hirout⟩ => ⟨⟨hdr, hir⟩, hdrout, hirout⟩,
    fun ⟨⟨hdr, hir⟩, hdrout, hirout⟩ => ⟨⟨hdr, hdrout⟩, hir, hirout⟩⟩

/-- A byte that joins the set and the log of its direction leaves the log within the set (R91, R92, R94). -/
theorem logged_insertSeen {v : Byte} {log seen : List Byte} (hc : SeenCanonical seen) (hl : ∀ w ∈ log, w ∈ seen) :
    SeenCanonical (insertSeen v seen) ∧ ∀ w ∈ bprepend log v, w ∈ insertSeen v seen :=
  ⟨seenCanonical_insertSeen hc, fun _ hw => mem_insertSeen.mpr ((mem_bprepend hw).imp_right (hl _))⟩

theorem observe_readbackKept (v : Byte) {s : State} (h : ReadbackKept s.serView) : ReadbackKept (observe v s).serView := by
  obtain ⟨hdr, hir⟩ := h
  obtain ⟨-, e⟩ | ⟨-, e⟩ | ⟨-, e⟩ := observe_cases v s <;> rw [e]
  · exact ⟨logged_insertSeen hdr.1 hdr.2, hir⟩
  · exact ⟨hdr, logged_insertSeen hir.1 hir.2⟩
  · exact ⟨hdr, hir⟩

theorem step_readbackKept {s t : State} (hk : ReadbackKept s.serView) (h : step s = .next t) : ReadbackKept t.serView := by
  by_cases ho : s.serial = .opened
  · obtain rfl | ⟨rest, rfl⟩ | ⟨b, rest, -, hb⟩ | ⟨v, rest, -, hv⟩ | ⟨rest, -, -, rfl⟩ | ⟨rest, -, rfl⟩ | ⟨rest, rfl⟩ :=
      step_cases_opened ho h
    · exact hk
    · exact hk
    · obtain ⟨-, rfl⟩ := exec_net_cases (decodeNet_port b) hb
      rw [netBody_serView]
      exact hk
    · obtain ⟨-, rfl⟩ := exec_rdbk_cases hv
      exact observe_readbackKept v (s := { s with inputs := rest }) hk
    · exact hk
    · exact hk
    · exact hk
  · obtain rfl | ⟨rest, rfl⟩ | ⟨-, ⟨rest, rfl⟩ | ⟨rest, rfl⟩ | ⟨rest, rfl⟩⟩ := step_cases_notOpened ho h
    · exact hk
    · exact hk
    · simp [ReadbackKept, State.serView, State.reset]
    · exact hk
    · exact hk

/-! ### A peer only in a started block -/

/-- What a step of a started block can do to the Connection Slot: keep it, set it on an ACCEPT, or clear it on a CLOSE or by the
policy for a serial error (R15, R99, R102, R107). -/
theorem step_conn_cases {s t : State} (ho : s.serial = .opened) (h : step s = .next t) :
    t.conn = s.conn ∨
    (t.conn = .peer ∧ nextInput s s.inputs = some (.accept, t.inputs)) ∨
    (t.conn = .none ∧ ((∃ c, nextInput s s.inputs = some (.close c, t.inputs)) ∨
      (nextInput s s.inputs = some (.serialError, t.inputs) ∧ Config.serialErrorPolicy = .closePeer))) := by
  obtain rfl | ⟨rest, rfl⟩ | ⟨b, rest, -, hb⟩ | ⟨v, rest, -, hv⟩ | ⟨rest, hn, -, rfl⟩ | ⟨rest, hn, rfl⟩ | ⟨rest, rfl⟩ :=
    step_cases_opened ho h
  · exact .inl rfl
  · exact .inl rfl
  · obtain ⟨-, rfl⟩ := exec_net_cases (decodeNet_port b) hb
    obtain ⟨-, -, hconn, -, -⟩ := netBody_frame (decodeNet b)
      (State.sendSo (encodeByte (decodeNet b)) { s with inputs := rest })
    exact .inl hconn
  · obtain ⟨-, rfl⟩ := exec_rdbk_cases hv
    exact .inl (congrArg NetView.conn (forward_observe_frame v _).1)
  · exact .inr (.inl ⟨rfl, hn⟩)
  · exact .inr (.inr ⟨rfl, hn⟩)
  · exact .inl rfl

/-- A started block stays started. -/
theorem step_serial_opened {s t : State} (ho : s.serial = .opened) (h : step s = .next t) : t.serial = .opened := by
  obtain rfl | ⟨rest, rfl⟩ | ⟨b, rest, -, hb⟩ | ⟨v, rest, -, hv⟩ | ⟨rest, -, -, rfl⟩ | ⟨rest, -, rfl⟩ | ⟨rest, rfl⟩ :=
    step_cases_opened ho h
  · exact ho
  · exact ho
  · obtain ⟨-, rfl⟩ := exec_net_cases (decodeNet_port b) hb
    obtain ⟨-, -, -, -, hserial⟩ := netBody_frame (decodeNet b)
      (State.sendSo (encodeByte (decodeNet b)) { s with inputs := rest })
    exact hserial.trans ho
  · obtain ⟨-, rfl⟩ := exec_rdbk_cases hv
    exact (congrArg NetView.serial (forward_observe_frame v _).1).trans ho
  · exact ho
  · exact ho
  · exact ho

/-- Before the start no step sets the slot; a successful open starts the block with the slot empty (R125). -/
theorem step_peerOnlyWhenStarted {s t : State} (hc : PeerOnlyWhenStarted s) (h : step s = .next t) :
    PeerOnlyWhenStarted t := by
  by_cases ho : s.serial = .opened
  · exact fun _ => step_serial_opened ho h
  · have hne : s.conn ≠ .peer := fun hp => ho (hc hp)
    obtain rfl | ⟨rest, rfl⟩ | ⟨-, ⟨rest, rfl⟩ | ⟨rest, rfl⟩ | ⟨rest, rfl⟩⟩ := step_cases_notOpened ho h
    · exact fun hp => absurd hp hne
    · exact fun hp => absurd hp hne
    · exact fun _ => rfl
    · exact fun hp => absurd hp hne
    · exact fun hp => absurd hp hne

/-- Settles O50: each part of the invariant is kept by every step. -/
theorem stepKeepsTheSessionInvariant : Obligations.StepKeepsTheSessionInvariant := by
  intro s t hinv h
  obtain ⟨hseen, hlogged⟩ := readbackKept_iff.mp
    (step_readbackKept (readbackKept_iff.mpr ⟨hinv.seenCanonical, hinv.readbackLogged⟩) h)
  exact
    { tapLegal := step_tapLegal hinv.tapLegal h
      notFatal := step_notFatal hinv.tapLegal hinv.notFatal h
      logsBounded := step_logsBounded hinv.logsBounded h
      seenCanonical := hseen
      readbackLogged := hlogged
      peerStarted := step_peerOnlyWhenStarted hinv.peerStarted h }

/-! ### The event stream tells the TAP state -/

/-- A record of another class moves nothing. -/
theorem followTransitions_single {e : Event} (h : e.kindClass ≠ .transition) (t : TapState) :
    followTransitions t [e] = some t := by
  cases e with
  | transition a b => exact absurd rfl h
  | _ => rfl

/-- The record of an update, if there is one, is an edge of the table. -/
theorem followTransitions_transitionEvents (t : TapState) (m : Bool) :
    followTransitions t (transitionEvents t (tapNext t m)) = some (tapNext t m) := by
  by_cases h : tapNext t m = t
  · rw [h, transitionEvents_self]; rfl
  · have hedge : tapNext t m = tapNext t true ∨ tapNext t m = tapNext t false := by cases m <;> simp
    rw [transitionEvents_of_ne h, followTransitions, if_pos ⟨rfl, h, hedge⟩]
    rfl

theorem followTransitions_changeReport (old new : Sig) (t : TapState) :
    followTransitions t (changeReport old new) = some t := by
  unfold changeReport
  split <;> rfl

/-- The records of a network instruction lead from `TAP` before it to `TAP` after it. -/
theorem followTransitions_netEvents {i : Instr} {s : State} {t : TapState} (hf : s.fatal = false) (ht : s.tap = .state t) :
    followTransitions t (netEvents s.sig s.tap i) = (netBody i s).tap.state? := by
  have hstay : some t = s.tap.state? := by rw [ht]; rfl
  cases i with
  | write c m d =>
    rw [netEvents, netBody]
    cases he : risingEdge s.sig (writeTriple c m d) with
    | true =>
      rw [ht, signalEvents_edge he, followTransitions_append, followTransitions_changeReport, Option.bind_some,
        followTransitions_transitionEvents, signalArm_edge hf he ht]
      rfl
    | false =>
      rw [signalEvents_noEdge he, signalArm_noEdge hf he]
      exact hstay
  | read =>
    have hclass : (readEvent s.tap).kindClass ≠ .transition := by
      unfold readEvent
      split <;> simp [Event.kindClass]
    exact (followTransitions_single hclass t).trans hstay
  | _ => exact hstay

theorem readbackEvent_notTransition (v : Byte) (tap : TapReg) (side : SerView) :
    (readbackEvent v tap side).kindClass ≠ .transition := by
  unfold readbackEvent
  split <;> simp [Event.kindClass]

/-- New records that lead from the old `TAP` to the new one keep the stream telling `TAP`. -/
theorem eventsTrackTap_append {s t : State} {new : List Event} (h : EventsTrackTap s) (hev : t.ev = s.ev ++ new)
    (hl : TapLegal t) (hnew : ∀ u, s.tap = .state u → followTransitions u new = t.tap.state?) : EventsTrackTap t := by
  obtain ⟨hlegal, htrack⟩ := h
  obtain ⟨u, hu⟩ := tap_of_tapLegal hlegal
  refine ⟨hl, ?_⟩
  rw [hev, followTransitions_append, htrack, hu]
  exact hnew u hu

theorem step_eventsTrackTap {s t : State} (he : EventsTrackTap s) (h : step s = .next t) : EventsTrackTap t := by
  have hl : TapLegal t := step_tapLegal he.1 h
  by_cases ho : s.serial = .opened
  · obtain rfl | ⟨rest, rfl⟩ | ⟨b, rest, -, hb⟩ | ⟨v, rest, -, hv⟩ | ⟨rest, -, -, rfl⟩ | ⟨rest, -, rfl⟩ | ⟨rest, rfl⟩ :=
      step_cases_opened ho h
    · exact he
    · exact he
    · obtain ⟨⟨-, hf, -⟩, rfl⟩ := exec_net_cases (decodeNet_port b) hb
      exact eventsTrackTap_append he (netBody_ev (decodeNet_port b) _) hl fun u hu => followTransitions_netEvents hf hu
    · obtain ⟨-, ht⟩ := exec_rdbk_cases hv
      refine eventsTrackTap_append he ((congrArg State.ev ht).trans (observe_ev v _)) hl fun u hu => ?_
      rw [exec_rdbk_tap hv, hu]
      exact followTransitions_single (readbackEvent_notTransition v _ _) u
    · exact he
    · exact eventsTrackTap_append he rfl hl fun u hu => by rw [closeStep_tap, hu]; rfl
    · exact he
  · obtain rfl | ⟨rest, rfl⟩ | ⟨-, ⟨rest, rfl⟩ | ⟨rest, rfl⟩ | ⟨rest, rfl⟩⟩ := step_cases_notOpened ho h
    · exact he
    · exact he
    · exact ⟨rfl, rfl⟩
    · exact he
    · exact he

/-- Settles O51: the records each step adds lead from the old `TAP` to the new one. -/
theorem eventStreamAlwaysTellsTheTapState : Obligations.EventStreamAlwaysTellsTheTapState := fun _ _ => step_eventsTrackTap

/-! ### Every reachable state -/

/-- Settles O48: both states are concrete. -/
theorem sessionStartMeetsTheInvariants : Obligations.SessionStartMeetsTheInvariants := by
  refine ⟨?_, ?_, by decide, by decide⟩
  · constructor <;> decide
  · constructor <;> decide

/-- Settles O52, by induction over the reachable states: the start states meet both invariants, an arriving input is read by
neither, and every step keeps both. -/
theorem everyReachableSessionIsSafe : Obligations.EveryReachableSessionIsSafe := by
  obtain ⟨hinvReset, hinvPowerOn, hevReset, hevPowerOn⟩ := sessionStartMeetsTheInvariants
  intro s hs
  induction hs with
  | powerOn => exact ⟨hinvPowerOn, hevPowerOn⟩
  | reset => exact ⟨hinvReset, hevReset⟩
  | arrive i _ ih =>
    obtain ⟨⟨htap, hfatal, hlogs, hseen, hlogged, hpeer⟩, hev⟩ := ih
    exact ⟨⟨htap, hfatal, hlogs, hseen, hlogged, hpeer⟩, hev⟩
  | step _ h ih => exact ⟨stepKeepsTheSessionInvariant _ _ ih.1 h, step_eventsTrackTap ih.2 h⟩

/-- Settles O43: the slot is empty at session start, and each change a step makes to it names its input. -/
theorem slotIsSetOnAcceptAndClearedOnClose : Obligations.SlotIsSetOnAcceptAndClearedOnClose := by
  refine ⟨rfl, fun s t ho h hs ht => ?_, fun s t ho h hs ht => ?_⟩
  · obtain e | ⟨-, hn⟩ | ⟨e, -⟩ := step_conn_cases ho h
    · simp [hs, ht] at e
    · exact hn
    · simp [ht] at e
  · obtain e | ⟨e, -⟩ | ⟨-, hn⟩ := step_conn_cases ho h
    · simp [hs, ht] at e
    · simp [ht] at e
    · exact hn

end Sys2Proof.Machine
end

section
/-! One step of the block (R1, R41): which input it takes, that it completes, and that it reads the trace only to find that input
(R16, R40, R101, R137). -/

namespace Sys2Proof.Machine

/-! ### The step by the next input -/

theorem step_of_none {s : State} (h : nextInput s s.inputs = none) : step s = idleStep s := by
  simp [step, blockStep, h]

theorem step_of_take {s : State} {i : Input} {rest : List Input} (h : nextInput s s.inputs = some (i, rest))
    (ha : s.admits i = .take) : step s = perform i { s with inputs := rest } := by
  simp [step, blockStep, h, ha]

theorem step_of_discard {s : State} {i : Input} {rest : List Input} (h : nextInput s s.inputs = some (i, rest))
    (ha : s.admits i = .discard) : step s = .next { s with inputs := rest } := by
  simp [step, blockStep, h, ha]

/-- A trace of waiting inputs only has no next input. -/
theorem nextInput_eq_none {s : State} {l : List Input} (h : ∀ i ∈ l, s.admits i = .wait) : nextInput s l = none := by
  cases hn : nextInput s l with
  | none => rfl
  | some p =>
    obtain ⟨hmem, hne⟩ := nextInput_admitted (i := p.1) (rest := p.2) hn
    exact absurd (h _ hmem) hne

/-- Waiting inputs ahead of a trace stay ahead of what the next input leaves (R101, R137). -/
theorem nextInput_append_of_wait {s : State} {w : List Input} (h : ∀ i ∈ w, s.admits i = .wait) (l : List Input) :
    nextInput s (w ++ l) = (nextInput s l).map fun p => (p.1, w ++ p.2) := by
  induction w with
  | nil => simp
  | cons i w ih =>
    obtain ⟨hi, hw⟩ := List.forall_mem_cons.mp h
    rw [List.cons_append, nextInput, hi, ih hw, Option.map_map]
    rfl

/-- The next input is taken out of the trace, and the rest keeps its order. -/
theorem nextInput_sublist {s : State} {l : List Input} {i : Input} {rest : List Input}
    (h : nextInput s l = some (i, rest)) : rest.Sublist l := by
  induction l generalizing i rest with
  | nil => cases h
  | cons j l ih =>
    simp only [nextInput] at h
    split at h
    · obtain ⟨⟨i', rest'⟩, hp, he⟩ := Option.map_eq_some_iff.mp h
      cases he
      exact (ih hp).cons_cons j
    · cases h; exact List.sublist_cons_self ..
    · cases h; exact List.sublist_cons_self ..

/-! ### Which inputs are admitted -/

/-- Only STOP and the outcome of the open have a step outside a started, running block (R16, R105, R106, R115). -/
theorem serReady_of_admitted {s : State} {i : Input} (h : s.admits i ≠ .wait) (hstop : i ≠ .stop)
    (hopen : ∀ ok, i ≠ .openResult ok) : SerReady s := by
  unfold State.admits at h
  split at h
  · exact absurd rfl h
  · rename_i hs
    split at h
    · exact absurd rfl h
    · cases i with
      | stop => exact absurd rfl hstop
      | openResult ok => exact absurd rfl (hopen ok)
      | _ => exact absurd rfl h
    · rename_i ho
      split at h
      · cases i with
        | stop => exact absurd rfl hstop
        | _ => exact absurd rfl h
      · rename_i hf
        exact ⟨Bool.eq_false_of_not_eq_true hf, Bool.eq_false_of_not_eq_true hs, ho⟩

theorem admits_netByte {s : State} (hs : NetReady s) (b : Byte) : s.admits (.netByte b) = .take := by
  rw [admits_of_serReady hs.2, hs.1]; rfl

theorem admits_serByte {s : State} (hs : SerReady s) (v : Byte) : s.admits (.serByte v) = .take := by
  rw [admits_of_serReady hs]; rfl

theorem netReady_of_take {s : State} {b : Byte} (h : s.admits (.netByte b) = .take) : NetReady s := by
  have hs : SerReady s := serReady_of_admitted (i := .netByte b) (by simp [h]) (by simp) (by simp)
  rw [admits_of_serReady hs] at h
  cases hc : s.conn with
  | peer => exact ⟨hc, hs⟩
  | none => rw [hc] at h; cases h

theorem serReady_of_take {s : State} {v : Byte} (h : s.admits (.serByte v) = .take) : SerReady s :=
  serReady_of_admitted (i := .serByte v) (by simp [h]) (by simp) (by simp)

/-- STOP is taken in every state but a finished one (R106). -/
theorem admits_stop {s : State} (hs : s.stopped = false) (ho : s.serial ≠ .openFailed) : s.admits .stop = .take := by
  rw [State.admits, if_neg (by simp [hs])]
  cases hser : s.serial with
  | openFailed => exact absurd hser ho
  | unopened => rfl
  | opened => cases s.fatal <;> rfl

/-! ### A step on a byte -/

theorem step_eq_exec_netByte {s : State} {b : Byte} {rest : List Input} (hs : NetReady s)
    (hi : s.inputs = .netByte b :: rest) : step s = exec (decodeNet b) { s with inputs := rest } :=
  step_take hi (admits_netByte hs b)

theorem step_eq_exec_serByte {s : State} {v : Byte} {rest : List Input} (hs : SerReady s)
    (hi : s.inputs = .serByte v :: rest) : step s = exec (.rdbk v) { s with inputs := rest } :=
  step_take hi (admits_serByte hs v)

/-- Settles O6: a byte at the head of the trace is taken by the agent of its port, and the host places its byte at the head. -/
theorem stepRunsTheDecodedInstruction : Obligations.StepRunsTheDecodedInstruction := by
  refine ⟨fun _ _ _ => step_eq_exec_netByte, fun _ _ _ => step_eq_exec_serByte, fun s w hw => ?_⟩
  have hword : s.withFetchWord 8 w = s.withNetByte (BitVec.ofNat 8 w) := by
    rw [State.withFetchWord, Nat.mod_eq_of_lt (show w < 2 ^ 8 from hw)]
  rw [hword]
  exact step_eq_exec_netByte ⟨rfl, rfl, rfl, rfl⟩ rfl

/-! ### A step completes unless the block is done -/

/-- An input that is taken always has its step. -/
theorem perform_of_take {s : State} {i : Input} (h : s.admits i = .take) : ∃ t, perform i s = .next t := by
  cases i with
  | netByte b => exact ⟨_, exec_net_of_ready (decodeNet_port b) (netReady_of_take h)⟩
  | serByte v => exact ⟨_, exec_rdbk_of_ready v (serReady_of_take h)⟩
  | _ => exact ⟨_, rfl⟩

theorem step_of_some {s : State} {i : Input} {rest : List Input} (h : nextInput s s.inputs = some (i, rest)) :
    ∃ t, step s = .next t := by
  cases ha : s.admits i with
  | take => rw [step_of_take h ha]; exact perform_of_take (s := { s with inputs := rest }) ha
  | wait => exact absurd ha (nextInput_admitted h).2
  | discard => exact ⟨_, step_of_discard h ha⟩

/-- With nothing to take, a block that is done stops by name and any other waits. -/
theorem idleStep_eq (s : State) : idleStep s =
    if s.stopped then .fault .stopped
    else if s.fatal then .fault .fatalInternal
    else if s.serial = .openFailed then .fault .serialOpenFailed
    else .next s := by
  unfold idleStep State.haltReason
  cases s.stopped
  · cases s.fatal
    · cases s.serial <;> rfl
    · rfl
  · rfl

/-- Settles O8: an input to take always has its step, and with none the block waits or stops by name. -/
theorem stepStopsExactlyWhenTheBlockIsDone : Obligations.StepStopsExactlyWhenTheBlockIsDone := by
  refine ⟨fun s => ?_, fun s r => ?_⟩
  · cases hn : nextInput s s.inputs with
    | none => rw [step_of_none hn, idleStep_eq]; split_ifs <;> simp_all
    | some p => simpa using step_of_some hn
  · cases hn : nextInput s s.inputs with
    | none => rw [step_of_none hn, idleStep_eq]; split_ifs <;> simp
    | some p =>
      obtain ⟨t, ht⟩ := step_of_some hn
      simp [ht]

/-! ### Steps one after another -/

theorem run_two {s t u : State} (h : step s = .next t) (h' : step t = .next u) : run 2 s = .next u :=
  (run_of_step h).trans (run_of_step (n := 0) h')

/-- All a run that ends in a state can begin with. -/
theorem run_succ_cases {n : Nat} {s t : State} (h : run (n + 1) s = .next t) :
    ∃ u, step s = .next u ∧ run n u = .next t := by
  cases hs : step s with
  | next u => exact ⟨u, rfl, (run_of_step hs).symm.trans h⟩
  | fault f => simp [run, hs] at h
  | refused r => simp [run, hs] at h

/-- A run of `m` steps goes on for `n` more. -/
theorem run_add {m n : Nat} {s t : State} (h : run m s = .next t) : run (m + n) s = run n t := by
  induction m generalizing s with
  | zero => cases h; rw [Nat.zero_add]
  | succ m ih =>
    obtain ⟨u, hstep, hrun⟩ := run_succ_cases h
    rw [Nat.succ_add, run_of_step hstep, ih hrun]

/-! ### A block that waits -/

/-- A running block with nothing to take steps to its own state (R137). -/
theorem step_waits {s : State} (hs : SerReady s) (hn : nextInput s s.inputs = none) : step s = .next s := by
  obtain ⟨hf, hst, ho⟩ := hs
  simp [step_of_none hn, idleStep_eq, hf, hst, ho]

/-- Settles O9, by induction on the number of steps. -/
theorem blockWithoutInputStaysInItsState : Obligations.BlockWithoutInputStaysInItsState := by
  intro s n hs hi
  induction n with
  | zero => rfl
  | succ n ih => rw [run_of_step (step_waits hs (by rw [hi]; rfl)), ih]

/-! ### What an input does is the same whatever stands behind it in the trace -/

/-- The state with another trace. -/
def mapInputs (g : List Input → List Input) (s : State) : State := { s with inputs := g s.inputs }

section
variable (g : List Input → List Input)

theorem storeSig_mapInputs (new : Sig) (s : State) : storeSig new (mapInputs g s) = mapInputs g (storeSig new s) := by
  cases hf : s.fatal <;> simp [storeSig, mapInputs, hf]

theorem tapUpdate_mapInputs (m d : Bool) (s : State) : tapUpdate m d (mapInputs g s) = mapInputs g (tapUpdate m d s) := by
  simp only [tapUpdate, mapInputs]
  split <;> rfl

theorem signalArm_mapInputs (new : Sig) (s : State) : signalArm new (mapInputs g s) = mapInputs g (signalArm new s) := by
  have hreport : reportChange s.sig new (mapInputs g s) = mapInputs g (reportChange s.sig new s) := rfl
  have hsig : (mapInputs g s).sig = s.sig := rfl
  unfold signalArm
  rw [hsig]
  split
  · rw [hreport, tapUpdate_mapInputs, storeSig_mapInputs]
  · rw [storeSig_mapInputs]

theorem netBody_mapInputs (i : Instr) (s : State) : netBody i (mapInputs g s) = mapInputs g (netBody i s) := by
  cases i with
  | write c m d => exact signalArm_mapInputs g _ s
  | _ => rfl

theorem observe_mapInputs (v : Byte) (s : State) : observe v (mapInputs g s) = mapInputs g (observe v s) := by
  simp only [observe, mapInputs]
  split <;> rfl

theorem exec_mapInputs (i : Instr) (s : State) : exec i (mapInputs g s) = mapNext (mapInputs g) (exec i s) := by
  have hhalt : (mapInputs g s).haltReason = s.haltReason := rfl
  have hconn : (mapInputs g s).conn = s.conn := rfl
  cases hp : i.port with
  | ni =>
    rw [exec_net hp, exec_net hp, netStep, netStep, hhalt, hconn]
    cases s.haltReason with
    | some f => rfl
    | none =>
      cases s.conn with
      | peer => exact congrArg Host.Outcome.next (netBody_mapInputs g i (s.sendSo (encodeByte i)))
      | none => rfl
  | si =>
    cases i with
    | rdbk v =>
      rw [exec_rdbk, exec_rdbk, serStep, serStep, hhalt]
      cases s.haltReason with
      | some f => rfl
      | none => exact congrArg (fun t => Host.Outcome.next (forward v t)) (observe_mapInputs g v s)
    | _ => cases hp

theorem perform_mapInputs (i : Input) (s : State) : perform i (mapInputs g s) = mapNext (mapInputs g) (perform i s) := by
  cases i with
  | netByte b => exact exec_mapInputs g (decodeNet b) s
  | serByte v => exact exec_mapInputs g (.rdbk v) s
  | serialError =>
    have hconn : (mapInputs g s).conn = s.conn := rfl
    refine congrArg Host.Outcome.next ?_
    cases Config.serialErrorPolicy with
    | closePeer =>
      simp only [serialErrorStep, hconn]
      split <;> rfl
    | _ => rfl
  | openResult ok => cases ok <;> rfl
  | _ => rfl

end

/-- The step on an input leaves the rest of the trace as it is. -/
theorem perform_inputs {i : Input} {s t : State} (h : perform i s = .next t) : t.inputs = s.inputs := by
  have hself : mapInputs (fun _ => s.inputs) s = s := rfl
  rw [← hself, perform_mapInputs] at h
  obtain ⟨u, -, rfl⟩ := mapNext_eq_next h
  rfl

/-- A step only takes inputs out of the trace. -/
theorem step_inputs_sublist {s t : State} (h : step s = .next t) : t.inputs.Sublist s.inputs := by
  obtain ⟨-, rfl⟩ | ⟨i, rest, hn, -, rfl⟩ | ⟨i, rest, hn, -, hp⟩ := step_cases h
  · exact List.Sublist.refl _
  · exact nextInput_sublist hn
  · rw [perform_inputs hp]
    exact nextInput_sublist hn

/-! ### Waiting ACCEPTs -/

theorem admits_accept {s : State} (hs : NetReady s) : s.admits .accept = .wait := by
  rw [admits_of_serReady hs.2, hs.1]; rfl

/-- While a peer is connected only an ACCEPT waits (R101). -/
theorem admitted_of_ne_accept {s : State} {i : Input} (hs : NetReady s) (hi : i ≠ .accept) : s.admits i ≠ .wait := by
  rw [admits_of_serReady hs.2, hs.1]
  cases i with
  | accept => exact absurd rfl hi
  | _ => simp [Conn.admits]

/-- Waiting inputs ahead of the next one change nothing of its step and stay in their place. -/
theorem step_behind_waiting {s : State} {w rest : List Input} {i : Input} (hw : ∀ j ∈ w, s.admits j = .wait)
    (hi : s.admits i ≠ .wait) (hin : s.inputs = w ++ i :: rest) :
    step s = mapNext (mapInputs (w ++ ·)) (step { s with inputs := i :: rest }) := by
  have hnext : nextInput s s.inputs = some (i, w ++ rest) := by
    rw [hin, nextInput_append_of_wait hw, nextInput_cons hi]
    rfl
  cases ha : s.admits i with
  | wait => exact absurd ha hi
  | discard => rw [step_of_discard hnext ha, step_discard (s := { s with inputs := i :: rest }) rfl ha]; rfl
  | take =>
    rw [step_of_take hnext ha, step_take (s := { s with inputs := i :: rest }) rfl ha]
    exact perform_mapInputs (w ++ ·) i { s with inputs := rest }

/-- Settles O7: an ACCEPT waits while a peer is connected, and no other input does. -/
theorem waitingAcceptsAreLeftUntouched : Obligations.WaitingAcceptsAreLeftUntouched := by
  have hwait {s : State} {n : Nat} (hs : NetReady s) : ∀ j ∈ List.replicate n Input.accept, s.admits j = .wait := by
    intro j hj
    rw [List.eq_of_mem_replicate hj, admits_accept hs]
  refine ⟨fun s n i rest hs hi hin => ?_, fun s n hs hin => ?_⟩
  · exact step_behind_waiting (hwait hs) (admitted_of_ne_accept hs hi) hin
  · exact step_waits hs.2 (nextInput_eq_none (hin ▸ hwait hs))

/-! ### A block that is done -/

/-- After STOP no step and no instruction completes, and the process has exited with status 0, holding nothing (R106). -/
theorem stopped_ends_everything {s : State} (h : s.stopped = true) :
    step s = .fault .stopped ∧ (∀ i, exec i s = .fault .stopped) ∧
    s.exitStatus = some 0 ∧ s.holdsSerial = false ∧ s.holdsSocket = false := by
  refine ⟨?_, exec_of_halted (by simp [State.haltReason, h]), ?_, ?_, ?_⟩
  · rw [step_of_none (nextInput_of_stopped h _), idleStep_eq, if_pos h]
  · simp [State.exitStatus, h]
  · simp [State.holdsSerial, h]
  · simp [State.holdsSocket, h]

/-- After the fatal error every input of a started block but STOP waits (R115). -/
theorem admits_of_fatal {s : State} (ho : s.serial = .opened) (hf : s.fatal = true) {i : Input} (hi : i ≠ .stop) :
    s.admits i = .wait := by
  have hwait : afterFatalAdmits i = .wait := by
    cases i with
    | stop => exact absurd rfl hi
    | _ => rfl
  simp [State.admits, ho, hf, hwait]

/-- After the fatal error the only step is STOP. -/
theorem step_of_fatal {s t : State} (ho : s.serial = .opened) (hf : s.fatal = true) (h : step s = .next t) :
    s.stopped = false ∧ ∃ rest, t = { s with stopped := true, inputs := rest } := by
  cases hn : nextInput s s.inputs with
  | none => exact absurd ⟨hn, .inr (.inl hf)⟩ ((stepStopsExactlyWhenTheBlockIsDone.1 s).mp ⟨t, h⟩)
  | some p =>
    obtain ⟨i, rest⟩ := p
    have hadm : s.admits i ≠ .wait := (nextInput_admitted hn).2
    have hstopped : s.stopped = false := by
      cases hs : s.stopped with
      | false => rfl
      | true => simp [State.admits, hs] at hadm
    obtain rfl : i = .stop := by_contra fun hi => hadm (admits_of_fatal ho hf hi)
    rw [step_of_take hn (admits_stop hstopped (by simp [ho]))] at h
    cases h
    exact ⟨hstopped, rest, rfl⟩

/-- Settles O14: an instruction needs both flags clear; after the fatal error every input but STOP waits, and after STOP every
input does. -/
theorem fatalAndStoppedEndEveryAgentsSteps : Obligations.FatalAndStoppedEndEveryAgentsSteps := by
  refine ⟨fun s i t hflag h => ?_, fun s t => step_of_fatal, fun s ho hf hs hstop => ?_, fun s hs => ?_⟩
  · obtain ⟨hf, hs, -⟩ := serReady_of_exec h
    simp [hf, hs] at hflag
  · have hwait : ∀ i ∈ s.inputs, s.admits i = .wait := fun i hi =>
      admits_of_fatal ho hf fun e => hstop (e ▸ hi)
    simp [step_of_none (nextInput_eq_none hwait), idleStep_eq, hs, hf]
  · exact (stopped_ends_everything hs).1

end Sys2Proof.Machine
end

section
/-! The inputs without an instruction (43_connection.md): accept, close, stop, the open and its failure, a serial error; and what a
block without a peer does (R15, R62, R99, R102, R103, R105 to R107, R125, R127). -/

namespace Sys2Proof.Machine

/-! ### Start -/

/-- Settles O46: the open is taken before the start; after it the serial byte is the only input. -/
theorem openGivesTheSessionStart : Obligations.OpenGivesTheSessionStart := by
  refine ⟨fun rest => ?_, fun v => ?_⟩
  · exact step_take (s := { State.powerOn with inputs := .openResult true :: rest }) rfl rfl
  · exact step_take (s := State.reset.arrive (.serByte v)) (rest := []) rfl rfl

/-- Settles O45: an instruction needs the open; the agents' inputs wait for it; after its failure every input waits. -/
theorem failedOpenIsFatalAtStartup : Obligations.FailedOpenIsFatalAtStartup := by
  refine ⟨fun i s ho t h => ?_, fun i s ho hs hagent => ?_, fun rest => ⟨_, ?_, rfl, ?_, ?_, rfl⟩⟩
  · obtain ⟨-, -, hopened⟩ := serReady_of_exec h
    simp [ho] at hopened
  · rw [State.admits, if_neg (by simp [hs]), ho]
    cases i with
    | stop => exact absurd rfl hagent
    | openResult ok => exact absurd rfl hagent
    | _ => rfl
  · exact step_take (s := { State.powerOn with inputs := .openResult false :: rest }) rfl rfl
  · exact step_of_none (nextInput_eq_none fun _ _ => rfl)
  · exact exec_of_halted rfl

/-! ### Stop -/

/-- Settles O44: STOP is taken at the head of the trace of a started block that has not stopped. -/
theorem stopEndsEveryStep : Obligations.StopEndsEveryStep := fun s rest ho hs hi =>
  ⟨{ s with stopped := true, inputs := rest }, step_take hi (admits_stop hs (by simp [ho])), rfl, stopped_ends_everything rfl⟩

/-- Settles O58: before the start the agents' inputs wait, so STOP is taken from behind them. -/
theorem stopBeforeTheStartEndsTheProcess : Obligations.StopBeforeTheStartEndsTheProcess := by
  intro s waiting rest ho hs hagent hi
  have hwait : ∀ i ∈ waiting, s.admits i = .wait := fun i hmem =>
    failedOpenIsFatalAtStartup.2.1 i s ho hs (hagent i hmem)
  have hstop : s.admits .stop = .take := admits_stop hs (by simp [ho])
  have hnext : nextInput s s.inputs = some (.stop, waiting ++ rest) := by
    rw [hi, nextInput_append_of_wait hwait, nextInput_cons (by simp [hstop])]
    rfl
  exact ⟨{ s with stopped := true, inputs := waiting ++ rest }, step_of_take hnext hstop, rfl, stopped_ends_everything rfl⟩

/-! ### Accept, close and a serial error -/

/-- Settles O40: with no peer an ACCEPT is taken. -/
theorem acceptInstallsThePeer : Obligations.AcceptInstallsThePeer := by
  intro s rest hs hc hi
  refine step_take hi ?_
  rw [admits_of_serReady hs, hc]
  rfl

/-- With a peer a CLOSE is taken, whatever its cause (R102). -/
theorem step_close {s : State} {c : CloseCause} {rest : List Input} (hs : NetReady s) (hi : s.inputs = .close c :: rest) :
    step s = .next { s with conn := .none, ev := s.ev ++ [.disconnected], inputs := rest } := by
  refine step_take hi ?_
  rw [admits_of_serReady hs.2, hs.1]
  rfl

/-- Settles O42: the slot an ACCEPT sets is the slot the CLOSE cleared. -/
theorem reconnectResetsNothing : Obligations.ReconnectResetsNothing := by
  intro s c rest hs hi
  have haccept := acceptInstallsThePeer
    { s with conn := .none, ev := s.ev ++ [.disconnected], inputs := .accept :: rest } rest hs.2 rfl rfl
  rw [run_two (step_close hs hi) haccept, ← hs.1]

/-- Settles O47: the step is the policy's, and each of its three values says which. -/
theorem serialErrorFollowsThePolicy : Obligations.SerialErrorFollowsThePolicy := by
  intro s rest hs hi
  have hstep : step s = .next (serialErrorStep Config.serialErrorPolicy { s with inputs := rest }) :=
    step_take hi (by rw [admits_of_serReady hs]; rfl)
  refine ⟨fun hp => ?_, fun hp hc => ?_, fun hp hc => ?_, fun hp => ?_⟩ <;> rw [hstep, hp]
  · rfl
  · simp [serialErrorStep, hc, closeStep, State.emit]
  · simp [serialErrorStep, hc]
  · rfl

/-! ### Without a peer -/

/-- Settles O34: the frame of the network step refuses, and the trace gives the byte up. -/
theorem noPeerNoNetworkStep : Obligations.NoPeerNoNetworkStep := by
  refine ⟨fun i s hp hs hc => ?_, fun s b rest hs hc hi => step_discard hi ?_⟩
  · simp [exec_net hp, netStep, haltReason_of_serReady hs, hc]
  · rw [admits_of_serReady hs, hc]
    rfl

/-- A started block without a peer and with no ACCEPT to come. -/
def Detached (s : State) : Prop := s.serial = .opened ∧ s.conn = .none ∧ .accept ∉ s.inputs

/-- Nothing of the network side, the slot aside, and nothing of what goes to the two transports has changed. -/
def PeerSideKept (s t : State) : Prop :=
  t.so = s.so ∧ t.no = s.no ∧ t.conn = .none ∧ t.tap = s.tap ∧ t.sig = s.sig ∧ t.drin = s.drin ∧ t.irin = s.irin

/-- RDBK without a peer writes at most the readback logs, the seen sets and EV. -/
theorem exec_rdbk_peerSideKept {v : Byte} {s t : State} (hc : s.conn = .none) (h : exec (.rdbk v) s = .next t) :
    PeerSideKept s t := by
  obtain ⟨-, rfl⟩ := exec_rdbk_cases h
  obtain ⟨hview, -⟩ := forward_observe_frame v s
  have hno : (forward v (observe v s)).no = s.no := by
    rw [forward_of_noPeer v ((observe_conn v s).trans hc), observe_no]
  exact ⟨congrArg NetView.so hview, hno, (congrArg NetView.conn hview).trans hc, congrArg NetView.tap hview,
    congrArg NetView.sig hview, congrArg NetView.drin hview, congrArg NetView.irin hview⟩

/-- A step of a detached block keeps it detached, and processes and forwards nothing (R62, R96, R102). -/
theorem step_of_detached {s t : State} (hd : Detached s) (h : step s = .next t) : Detached t ∧ PeerSideKept s t := by
  obtain ⟨ho, hc, haccept⟩ := hd
  have hkept : PeerSideKept s t := by
    have hself : PeerSideKept s s := ⟨rfl, rfl, hc, rfl, rfl, rfl, rfl⟩
    obtain rfl | ⟨rest, rfl⟩ | ⟨b, rest, -, hb⟩ | ⟨v, rest, -, hv⟩ | ⟨rest, hn, -, -⟩ | ⟨rest, -, rfl⟩ | ⟨rest, rfl⟩ :=
      step_cases_opened ho h
    · exact hself
    · exact hself
    · obtain ⟨⟨hpeer, -⟩, -⟩ := exec_net_cases (decodeNet_port b) hb
      simp [hc] at hpeer
    · exact exec_rdbk_peerSideKept (s := { s with inputs := rest }) hc hv
    · exact absurd (nextInput_admitted hn).1 haccept
    · exact ⟨rfl, rfl, rfl, rfl, rfl, rfl, rfl⟩
    · exact hself
  exact ⟨⟨step_serial_opened ho h, hkept.2.2.1, fun hm => haccept ((step_inputs_sublist h).mem hm)⟩, hkept⟩

/-- The same for a run of any length. -/
theorem run_of_detached {n : Nat} {s t : State} (hd : Detached s) (h : run n s = .next t) : PeerSideKept s t := by
  induction n generalizing s with
  | zero => cases h; exact ⟨rfl, rfl, hd.2.1, rfl, rfl, rfl, rfl⟩
  | succ n ih =>
    obtain ⟨u, hstep, hrun⟩ := run_succ_cases h
    obtain ⟨hu, hso, hno, -, htap, hsig, hdrin, hirin⟩ := step_of_detached hd hstep
    obtain ⟨hso', hno', hconn', htap', hsig', hdrin', hirin'⟩ := ih hu hrun
    exact ⟨hso'.trans hso, hno'.trans hno, hconn', htap'.trans htap, hsig'.trans hsig, hdrin'.trans hdrin,
      hirin'.trans hirin⟩

/-- Settles O41: after the CLOSE the block is without a peer, and stays so as long as no ACCEPT is to come. -/
theorem closeClearsTheSlot : Obligations.CloseClearsTheSlot := by
  intro s c rest hs hi
  refine ⟨_, step_close hs hi, rfl, fun n u haccept h => run_of_detached ⟨hs.2.2.2, rfl, haccept⟩ h,
    fun b later hrest => ?_, fun v later hrest => ?_⟩
  · exact noPeerNoNetworkStep.2 _ b later hs.2 rfl hrest
  · have hstep := step_eq_exec_serByte
      (s := { s with conn := .none, ev := s.ev ++ [.disconnected], inputs := rest }) (rest := later) hs.2 hrest
    have hexec := exec_rdbk_of_ready v
      (s := { s with conn := .none, ev := s.ev ++ [.disconnected], inputs := later }) hs.2
    obtain ⟨-, hno, hconn, -⟩ := exec_rdbk_peerSideKept rfl hexec
    exact ⟨_, hstep.trans hexec, hno, hconn⟩

end Sys2Proof.Machine
end

section
/-! WRITE and the TAP state machine (40_signal_decoder.md sections 3 and 4, 41_tap_fsm.md): the whole effect of a WRITE byte, the two
logs in the CAPTURE and SHIFT states, and the pseudo-instruction CLK (R42, R50, R66 to R69, R71, R75, R76, R82, R83, R88). -/

namespace Sys2Proof.Machine

/-! ### The states -/

/-- Settles O15: the table is finite. -/
theorem thereAreSixteenTapStates : Obligations.ThereAreSixteenTapStates := by
  refine ⟨rfl, by decide, fun t => ?_, by decide⟩
  exact List.mem_map_of_mem (f := Prod.fst) (tapRow_mem_tapTable t)

/-! ### The logs after an update (R66 to R69) -/

theorem drinAfter_eq (t : TapState) (m d : Bool) (l : List ShiftChar) : drinAfter t m d l =
    if tapNext t m = .drexit1 then bappend (if t = .drshift then bappend l (dataChar d) else l) .space
    else if t = .drshift then bappend l (dataChar d) else l := by
  simp [drinAfter, appendSeparator, appendBit]

theorem irinAfter_eq (t : TapState) (m d : Bool) (l : List ShiftChar) : irinAfter t m d l =
    if tapNext t m = .irexit1 then bappend (if t = .irshift then bappend l (dataChar d) else l) .space
    else if t = .irshift then bappend l (dataChar d) else l := by
  simp [irinAfter, appendSeparator, appendBit]

/-- Settles O22: the bit rule reads the state alone, the separator rule the successor alone. -/
theorem bitsAreAppendedOnlyInShiftStates : Obligations.BitsAreAppendedOnlyInShiftStates := by
  intro m d s t ht
  rw [tapUpdate_state ht]
  refine ⟨fun h => ?_, fun h => ?_, fun h => ?_, fun h => ?_⟩
  · subst h; cases m <;> rfl
  · simp [drinAfter_eq, h]
  · subst h; cases m <;> rfl
  · simp [irinAfter_eq, h]

/-- Two appends to a full log drop its two oldest elements. -/
theorem bappend_bappend_of_full {α : Type} {l : List α} (x y : α) (h : l.length = Config.logBound) :
    bappend (bappend l x) y = l.drop 2 ++ [x, y] := by
  obtain ⟨a, b, l, rfl⟩ : ∃ a b l', l = a :: b :: l' := by
    match l, h with
    | a :: b :: l', _ => exact ⟨a, b, l', rfl⟩
  have hfull : (bappend (a :: b :: l) x).length = Config.logBound := by rw [bappend_length, h]; rfl
  rw [bappend_of_full y hfull, bappend_of_full x h]
  simp

/-! ### The whole effect of WRITE -/

/-- Without a rising edge a WRITE byte is forwarded and its triple stored. -/
theorem exec_write_noEdge {s : State} {c : Bool} (m d : Bool) (hs : NetReady s) (h : s.sig.clk = true ∨ c = false) :
    exec (.write c m d) s = .next { s with so := s.so ++ [writeByte c m d], sig := ⟨c, m, d⟩ } := by
  rw [exec_net_of_ready rfl hs, netBody_write_noEdge _ hs.2.1 h]
  rfl

/-- A rising edge with `TAP` outside the 16 states (R71, R115): the byte is forwarded, the change reported, FATAL set. -/
theorem exec_write_fatal {s : State} {k : Nat} (m d : Bool) (hs : NetReady s) (ht : s.tap = .outside k)
    (hclk : s.sig.clk = false) :
    exec (.write true m d) s = .next
      { s with
        so := s.so ++ [writeByte true m d]
        ev := s.ev ++ edgeReport s.sig m d ++ [.fatalInternal s.tap]
        fatal := true } := by
  have he : risingEdge s.sig (writeTriple true m d) = true := risingEdge_iff.mpr ⟨hclk, rfl⟩
  rw [← changeReport_of_clk_low m d hclk, exec_net_of_ready rfl hs]
  exact congrArg Host.Outcome.next (signalArm_fatal (s := s.sendSo (writeByte true m d)) he ht)

/-- Where a byte makes no rising edge, the stored clock level is 1 or its own is 0 (R47). -/
theorem noEdge_of_not_edge {s : State} {c : Bool} (h : ¬ (s.sig.clk = false ∧ c = true)) : s.sig.clk = true ∨ c = false := by
  cases hclk : s.sig.clk with
  | true => exact .inl rfl
  | false => exact .inr (Bool.eq_false_of_not_eq_true fun hc => h ⟨hclk, hc⟩)

/-- Settles O10: with a rising edge the one update of the 16 states, without one only SO and SIG. -/
theorem writeCompletesWithItsWholeEffect : Obligations.WriteCompletesWithItsWholeEffect := by
  intro c m d s t hs ht
  by_cases h : s.sig.clk = false ∧ c = true
  · rw [if_pos h]
    obtain ⟨hclk, rfl⟩ := h
    rw [exec_write_edge m d hs ht hclk, drinAfter_eq, irinAfter_eq]
    rfl
  · rw [if_neg h]
    exact exec_write_noEdge m d hs (noEdge_of_not_edge h)

/-- Settles O13: with a rising edge the fatal error, without one nothing reads `TAP`. -/
theorem edgeOutsideTheSixteenStatesIsFatal : Obligations.EdgeOutsideTheSixteenStatesIsFatal := by
  intro c m d s k hs ht
  split_ifs with h
  · obtain ⟨hclk, rfl⟩ := h
    exact exec_write_fatal m d hs ht hclk
  · exact exec_write_noEdge m d hs (noEdge_of_not_edge h)

/-- Settles O12: the SIGNAL arm stores the triple unless the fatal error ends it, and no other body writes SIG. -/
theorem onlyWriteStoresTheTriple : Obligations.OnlyWriteStoresTheTriple := by
  intro i s t hp h hfatal
  obtain ⟨⟨-, hf, -⟩, rfl⟩ := exec_net_cases hp h
  refine ⟨?_, fun hi => ?_⟩
  · rintro c m d rfl
    obtain ⟨-, e⟩ | ⟨u, -, -, e⟩ | ⟨k, -, -, e⟩ :=
      signalArm_cases (new := writeTriple c m d) (s := s.sendSo (writeByte c m d)) hf
    · exact congrArg State.sig e
    · exact congrArg State.sig e
    · exact absurd ((congrArg State.fatal e).symm.trans hfatal) (by simp)
  · obtain ⟨e, he⟩ := netBody_report hi hp (s.sendSo (encodeByte i))
    rw [he]
    rfl

/-! ### The CAPTURE and SHIFT states -/

/-- Settles O18: the step runs one update from the shift state, whose two rules are read off. -/
theorem shiftStatesAppendTheBitThenTheSeparator : Obligations.ShiftStatesAppendTheBitThenTheSeparator := by
  intro d s hs hclk
  refine ⟨fun ht => ⟨⟨_, exec_write_edge true d hs ht hclk, rfl, rfl, rfl, fun hfull => ?_, rfl⟩,
    ⟨_, exec_write_edge false d hs ht hclk, rfl, rfl, rfl, List.append_nil _⟩⟩,
    fun ht => ⟨⟨_, exec_write_edge true d hs ht hclk, rfl, rfl, rfl, fun hfull => ?_, rfl⟩,
    ⟨_, exec_write_edge false d hs ht hclk, rfl, rfl, rfl, List.append_nil _⟩⟩⟩
  · exact bappend_bappend_of_full (dataChar d) .space hfull
  · exact bappend_bappend_of_full (dataChar d) .space hfull

/-- Settles O19: from a CAPTURE state the bit rule is silent, and the separator rule speaks for m = 1. -/
theorem captureStatesAppendOnlyTheSeparator : Obligations.CaptureStatesAppendOnlyTheSeparator := fun d _ hs hclk =>
  ⟨fun ht => ⟨⟨_, exec_write_edge true d hs ht hclk, rfl, rfl, rfl, rfl⟩,
    ⟨_, exec_write_edge false d hs ht hclk, rfl, rfl, rfl, rfl⟩⟩,
  fun ht => ⟨⟨_, exec_write_edge true d hs ht hclk, rfl, rfl, rfl, rfl⟩,
    ⟨_, exec_write_edge false d hs ht hclk, rfl, rfl, rfl, rfl⟩⟩⟩

/-! ### CLK(m, d) -/

/-- A WRITE byte at the head of the trace of a connected running block. -/
theorem step_writeByte {s : State} {c m d : Bool} {rest : List Input} (hs : NetReady s)
    (hi : s.inputs = .netByte (writeByte c m d) :: rest) : step s = exec (.write c m d) { s with inputs := rest } := by
  rw [step_eq_exec_netByte hs hi, decodeNet_writeByte]

theorem step_write_noEdge {s : State} {c m d : Bool} {rest : List Input} (hs : NetReady s)
    (h : s.sig.clk = true ∨ c = false) (hi : s.inputs = .netByte (writeByte c m d) :: rest) :
    step s = .next { s with so := s.so ++ [writeByte c m d], sig := ⟨c, m, d⟩, inputs := rest } :=
  (step_writeByte hs hi).trans (exec_write_noEdge (s := { s with inputs := rest }) m d hs h)

theorem step_write_edge {s : State} {t : TapState} {m d : Bool} {rest : List Input} (hs : NetReady s)
    (ht : s.tap = .state t) (hclk : s.sig.clk = false) (hi : s.inputs = .netByte (writeByte true m d) :: rest) :
    step s = .next
      { s with
        so := s.so ++ [writeByte true m d]
        sig := ⟨true, m, d⟩
        drin := drinAfter t m d s.drin
        irin := irinAfter t m d s.irin
        tap := .state (tapNext t m)
        ev := s.ev ++ edgeReport s.sig m d ++ transitionEvents t (tapNext t m)
        inputs := rest } :=
  (step_writeByte hs hi).trans (exec_write_edge (s := { s with inputs := rest }) m d hs ht hclk)

/-- A mode and a data level already stored are no change. -/
theorem edgeReport_self (c m d : Bool) : edgeReport ⟨c, m, d⟩ m d = [] := by
  simp [edgeReport]

/-- Settles O25: the first byte lowers the clock and sets the levels, the second makes the edge with them unchanged. -/
theorem clkMakesOneCleanEdge : Obligations.ClkMakesOneCleanEdge := by
  intro m d s t rest hs ht hi
  have hlow := step_write_noEdge hs (.inr rfl) hi
  have hhigh := step_write_edge (m := m) (d := d) (rest := rest)
    (s := { s with
      so := s.so ++ [writeByte false m d], sig := ⟨false, m, d⟩, inputs := .netByte (writeByte true m d) :: rest })
    hs ht rfl rfl
  rw [edgeReport_self, List.append_nil, List.append_assoc] at hhigh
  exact run_two hlow hhigh

/-- A run of CLK(1, d) takes one successor for m = 1 after another, whatever the data bits. -/
theorem run_clocks (ds : List Bool) {s : State} {t : TapState} (hs : NetReady s) (ht : s.tap = .state t)
    (hi : s.inputs = netTrace (ds.flatMap (clkBytes true))) :
    ∃ u, run (2 * ds.length) s = .next u ∧ u.tap = .state ((tapNext · true)^[ds.length] t) ∧ u.inputs = [] := by
  induction ds generalizing s t with
  | nil => exact ⟨s, rfl, ht, hi⟩
  | cons d ds ih =>
    rw [List.flatMap_cons, netTrace, List.map_append] at hi
    rw [List.length_cons, Nat.mul_add_one, Nat.add_comm _ 2, run_add (clkMakesOneCleanEdge true d s t _ hs ht hi)]
    exact ih hs rfl rfl

/-- RESET is five edges with m = 1 away from any state (R88). -/
theorem tapNext_five (t : TapState) : (tapNext · true)^[5] t = .reset := by
  cases t <;> rfl

/-- Settles O24: five clocks reach RESET, and RESET is kept by the others. -/
theorem fiveModeOneClocksReachReset : Obligations.FiveModeOneClocksReachReset := by
  intro ds s hs hl hlen hi
  obtain ⟨t, ht⟩ := tap_of_tapLegal hl
  obtain ⟨u, hrun, htap, hin⟩ := run_clocks ds hs ht hi
  refine ⟨u, hrun, ?_, hin⟩
  obtain ⟨n, hn⟩ : ∃ n, ds.length = n + 5 := ⟨ds.length - 5, by omega⟩
  rw [htap, hn, Function.iterate_add_apply, tapNext_five, Function.iterate_fixed rfl]

end Sys2Proof.Machine
end

section
/-! The network commands and RDBK as whole steps (40_signal_decoder.md sections 2, 4 and 5, 42_readback.md section 2): the commands
without signal values, the pseudocode of R45, and the two frames of R21. -/

namespace Sys2Proof.Machine

/-! ### The commands without signal values -/

/-- Settles O27: the frame of the network step, with each command's one record. -/
theorem sideChannelCommandsForwardAndReport : Obligations.SideChannelCommandsForwardAndReport := fun _ hs =>
  ⟨exec_net_of_ready rfl hs, exec_net_of_ready rfl hs, exec_net_of_ready rfl hs,
    exec_net_of_ready rfl hs, exec_net_of_ready rfl hs, exec_net_of_ready rfl hs⟩

/-- The report of READ, by the three cases of R59. -/
theorem readEvent_eq (t : TapReg) : readEvent t =
    if t = .state .drshift then .readRequest .drshift
    else if t = .state .irshift then .readRequest .irshift
    else .readOutOfState t := by
  split_ifs with hdr hir
  · rw [hdr]; rfl
  · rw [hir]; rfl
  · rw [readEvent, shiftState?_eq_none.mpr ⟨hdr, hir⟩]

/-- READ is forwarded in every state and reported by `TAP`. -/
theorem exec_read {s : State} (hs : NetReady s) :
    exec .read s = .next { s with so := s.so ++ [0x52#8], ev := s.ev ++ [readEvent s.tap] } :=
  exec_net_of_ready rfl hs

/-- Settles O28: the one record of READ, case by case. -/
theorem readReportsByTheTapState : Obligations.ReadReportsByTheTapState := by
  intro s hs
  rw [exec_read hs, readEvent_eq]
  exact ⟨fun h => by rw [if_pos h], fun h => by rw [h]; rfl, fun hdr hir => by rw [if_neg hdr, if_neg hir]⟩

/-! ### The pseudocode of R45 -/

/-- The SIGNAL arm, in the words of the pseudocode: the condition is the rising edge, the report that of R48. -/
theorem signalArm_eq_pseudocode {c m d : Bool} {s : State} (hf : s.fatal = false) :
    signalArm ⟨c, m, d⟩ s =
      if s.sig.clk = false ∧ c = true then
        storeSig ⟨c, m, d⟩ (tapUpdate m d { s with ev := s.ev ++ edgeReport s.sig m d })
      else { s with sig := ⟨c, m, d⟩ } := by
  split_ifs with h
  · obtain ⟨hclk, rfl⟩ := h
    rw [signalArm, if_pos (risingEdge_iff.mpr ⟨hclk, rfl⟩), reportChange, changeReport_of_clk_low m d hclk]
  · exact signalArm_noEdge hf (Bool.eq_false_of_not_eq_true fun he => h (risingEdge_iff.mp he))

/-- Settles O32: on the instruction the byte decodes to, each arm of the pseudocode is the body of the network step. -/
theorem networkStepFollowsThePseudocode : Obligations.NetworkStepFollowsThePseudocode := by
  intro b s hs
  rw [exec_net_of_ready (decodeNet_port b) hs, encodeByte_decodeNet, netStepPseudocode, decodeAction]
  have hp := decodeNet_port b
  refine congrArg Host.Outcome.next ?_
  cases hi : decodeNet b with
  | write c m d => exact signalArm_eq_pseudocode (s := s.sendSo b) hs.2.1
  | read =>
    change (s.sendSo b).emit (readEvent s.tap) = _
    rw [readEvent_eq]
    simp only [Instr.action]
    split_ifs <;> rfl
  | rdbk v => rw [hi] at hp; cases hp
  | _ => rfl

/-! ### The frame of the network commands -/

/-- Without a rising edge no network instruction writes `TAP`, the DR-in and IR-in logs or FATAL. -/
theorem netBody_of_no_edge {i : Instr} (hp : i.port = .ni) {s : State} (hf : s.fatal = false)
    (h : ¬ ∃ m d, i = .write true m d ∧ s.sig.clk = false) :
    (netBody i s).tap = s.tap ∧ (netBody i s).drin = s.drin ∧ (netBody i s).irin = s.irin ∧
    (netBody i s).fatal = s.fatal := by
  cases i with
  | write c m d =>
    have he : risingEdge s.sig (writeTriple c m d) = false := by
      refine Bool.eq_false_of_not_eq_true fun he => ?_
      obtain ⟨hclk, rfl⟩ := risingEdge_iff.mp he
      exact h ⟨m, d, rfl, hclk⟩
    rw [netBody, signalArm_noEdge hf he]
    exact ⟨rfl, rfl, rfl, rfl⟩
  | rdbk v => cases hp
  | _ => exact ⟨rfl, rfl, rfl, rfl⟩

/-- Settles O31: the byte is forwarded first, and the body writes at most the network side and EV. -/
theorem networkCommandsLeaveTheRest : Obligations.NetworkCommandsLeaveTheRest := by
  intro i s t hp h
  obtain ⟨⟨-, hf, -⟩, rfl⟩ := exec_net_cases hp h
  obtain ⟨hso, hinputs, hconn, hstopped, hserial⟩ := netBody_frame i (s.sendSo (encodeByte i))
  have hser := netBody_serView i (s.sendSo (encodeByte i))
  exact ⟨congrArg SerView.drout hser, congrArg SerView.irout hser, congrArg SerView.drseen hser,
    congrArg SerView.irseen hser, hconn, hstopped, congrArg SerView.no hser, hserial, hinputs, hso,
    ⟨_, netBody_ev hp _⟩, netBody_of_no_edge hp (s := s.sendSo (encodeByte i)) hf⟩

/-! ### RDBK -/

/-- In any other state the tracker only reports the anomaly (R93). -/
theorem observe_of_not_shift (v : Byte) {s : State} (hdr : s.tap ≠ .state .drshift) (hir : s.tap ≠ .state .irshift) :
    observe v s = s.emit (.unexpectedRead s.tap) := by
  simp [observe, shiftState?_eq_none.mpr ⟨hdr, hir⟩]

/-- Settles O35: the tracker by the state of `TAP`, then the forwarding by the slot. -/
theorem readbackCompletesWithItsWholeEffect : Obligations.ReadbackCompletesWithItsWholeEffect := by
  intro v s hs
  rw [exec_rdbk_of_ready v hs, ← forwarded_eq]
  refine ⟨fun h => ?_, fun h => ?_, fun hdr hir => ?_⟩
  · rw [observe_of_drshift v h]; rfl
  · rw [observe_of_irshift v h]; rfl
  · rw [observe_of_not_shift v hdr hir]; rfl

/-- The tracker writes a log and a set only in the shift state of their direction. -/
theorem observe_other_direction (v : Byte) (s : State) :
    (s.tap ≠ .state .drshift → (observe v s).drout = s.drout ∧ (observe v s).drseen = s.drseen) ∧
    (s.tap ≠ .state .irshift → (observe v s).irout = s.irout ∧ (observe v s).irseen = s.irseen) := by
  obtain ⟨ht, e⟩ | ⟨ht, e⟩ | ⟨-, e⟩ := observe_cases v s <;> rw [e]
  · exact ⟨fun h => absurd ht h, fun _ => ⟨rfl, rfl⟩⟩
  · exact ⟨fun _ => ⟨rfl, rfl⟩, fun h => absurd ht h⟩
  · exact ⟨fun _ => ⟨rfl, rfl⟩, fun _ => ⟨rfl, rfl⟩⟩

/-- Settles O39: the frame of the serial step, its one record, and the gate of the tracker. -/
theorem readbackLeavesTheRest : Obligations.ReadbackLeavesTheRest := by
  intro v s t h
  obtain ⟨-, rfl⟩ := exec_rdbk_cases h
  obtain ⟨hview, hinputs⟩ := forward_observe_frame v s
  exact ⟨hview, hinputs, ⟨_, observe_ev v s⟩, observe_other_direction v s⟩

end Sys2Proof.Machine
end

section
/-! The two agents (20_memory.md sections 4 and 6, R21, R26, R29, R123, R131): the step of each as a function of the side it reads,
from which follow the order of the bytes, the independence of the network side, and what the order of two steps decides. -/

namespace Sys2Proof.Machine

/-! ### The step of A_NET on the network side -/

/-- What A_NET's step on a byte does. -/
def netTake (b : Byte) (s : State) : State := netBody (decodeNet b) (s.sendSo b)

/-- What the body of a network instruction makes of the network side (R47 to R50, R65, R115). -/
def netSide (n : NetView) : Instr → NetView
  | .write c m d =>
    if risingEdge n.sig ⟨c, m, d⟩ then
      match n.tap with
      | .state t =>
        { n with
          sig := ⟨c, m, d⟩
          drin := drinAfter t m d n.drin
          irin := irinAfter t m d n.irin
          tap := .state (tapNext t m) }
      | .outside _ => { n with fatal := true }
    else { n with sig := ⟨c, m, d⟩ }
  | _ => n

/-- What A_NET's step on a byte makes of the network side. -/
def netSideTake (n : NetView) (b : Byte) : NetView := netSide { n with so := n.so ++ [b] } (decodeNet b)

theorem netBody_netView (i : Instr) {s : State} (hf : s.fatal = false) : (netBody i s).netView = netSide s.netView i := by
  cases i with
  | write c m d =>
    obtain ⟨he, e⟩ | ⟨t, he, ht, e⟩ | ⟨k, he, ht, e⟩ := signalArm_cases (new := ⟨c, m, d⟩) hf <;>
      rw [netBody, writeTriple, e]
    · simp [netSide, State.netView, he]
    · simp [netSide, State.netView, he, ht]
    · simp [netSide, State.netView, he, ht]
  | _ => rfl

theorem netTake_netView (b : Byte) {s : State} (hf : s.fatal = false) :
    (netTake b s).netView = netSideTake s.netView b := netBody_netView (decodeNet b) (s := s.sendSo b) hf

theorem netTake_serView (b : Byte) (s : State) : (netTake b s).serView = s.serView :=
  netBody_serView (decodeNet b) (s.sendSo b)

theorem netTake_ev (b : Byte) (s : State) : (netTake b s).ev = s.ev ++ netEvents s.sig s.tap (decodeNet b) :=
  netBody_ev (decodeNet_port b) (s.sendSo b)

theorem netTake_inputs (b : Byte) (s : State) : (netTake b s).inputs = s.inputs :=
  (netBody_frame (decodeNet b) (s.sendSo b)).2.1

theorem netTake_conn (b : Byte) (s : State) : (netTake b s).conn = s.conn :=
  (netBody_frame (decodeNet b) (s.sendSo b)).2.2.1

/-- From one of the 16 states A_NET may take the next byte as well. -/
theorem netTake_netReady (b : Byte) {s : State} (hs : NetReady s) (hl : TapLegal s) : NetReady (netTake b s) := by
  obtain ⟨hconn, hfatal, hstopped, hserial⟩ := hs
  obtain ⟨-, -, econn, estopped, eserial⟩ := netBody_frame (decodeNet b) (s.sendSo b)
  exact ⟨econn.trans hconn, netBody_notFatal _ (s := s.sendSo b) hfatal hl, estopped.trans hstopped,
    eserial.trans hserial⟩

theorem netSide_so (n : NetView) (i : Instr) : (netSide n i).so = n.so := by
  unfold netSide
  repeat' split
  all_goals rfl

/-- SO gains the bytes in the order they are taken (R46). -/
theorem foldl_netSideTake_so (n : NetView) (bs : List Byte) : (bs.foldl netSideTake n).so = n.so ++ bs := by
  induction bs generalizing n with
  | nil => exact (List.append_nil _).symm
  | cons b bs ih => rw [List.foldl_cons, ih, netSideTake, netSide_so, List.append_assoc, List.singleton_append]

theorem exec_decodeNet {s : State} (hs : NetReady s) (b : Byte) : exec (decodeNet b) s = .next (netTake b s) := by
  rw [exec_net_of_ready (decodeNet_port b) hs, encodeByte_decodeNet, netTake]

theorem step_netTake {s : State} {b : Byte} {rest : List Input} (hs : NetReady s) (hi : s.inputs = .netByte b :: rest) :
    step s = .next (netTake b { s with inputs := rest }) :=
  (step_eq_exec_netByte hs hi).trans (exec_decodeNet (s := { s with inputs := rest }) hs b)

/-! ### The step of A_SER on the serial side -/

/-- What A_SER's step on a byte does. -/
def serTake (v : Byte) (s : State) : State := forward v (observe v s)

/-- What the tracker makes of the serial side, by `TAP` (R91 to R93). -/
def observeSide (v : Byte) (tap : TapReg) (side : SerView) : SerView :=
  match tap.shiftState? with
  | some .drshift => { side with drseen := insertSeen v side.drseen, drout := bprepend side.drout v }
  | some .irshift => { side with irseen := insertSeen v side.irseen, irout := bprepend side.irout v }
  | _ => side

theorem observe_serView (v : Byte) (s : State) : (observe v s).serView = observeSide v s.tap s.serView := by
  obtain ⟨ht, e⟩ | ⟨ht, e⟩ | ⟨ht, e⟩ := observe_cases v s <;> rw [e, observeSide]
  · rw [ht]; rfl
  · rw [ht]; rfl
  · rw [ht]; rfl

/-- The serial side after A_SER's step: the tracker by `TAP`, the forwarding by the slot. -/
theorem serTake_serView (v : Byte) (s : State) :
    (serTake v s).serView =
      { observeSide v s.tap s.serView with no := (observeSide v s.tap s.serView).no ++ forwarded s.conn v } := by
  rw [← observe_serView, ← observe_conn v s]
  rfl

theorem serTake_no {s : State} (hc : s.conn = .peer) (v : Byte) : (serTake v s).no = s.no ++ [v] := by
  rw [serTake, forward_of_peer v ((observe_conn v s).trans hc), State.sendNo_no, observe_no]

theorem serTake_netView (v : Byte) (s : State) : (serTake v s).netView = s.netView := (forward_observe_frame v s).1

theorem serTake_tap (v : Byte) (s : State) : (serTake v s).tap = s.tap := congrArg NetView.tap (serTake_netView v s)

theorem serTake_sig (v : Byte) (s : State) : (serTake v s).sig = s.sig := congrArg NetView.sig (serTake_netView v s)

theorem serTake_fatal (v : Byte) (s : State) : (serTake v s).fatal = s.fatal := congrArg NetView.fatal (serTake_netView v s)

theorem serTake_inputs (v : Byte) (s : State) : (serTake v s).inputs = s.inputs := (forward_observe_frame v s).2

theorem serTake_ev (v : Byte) (s : State) : (serTake v s).ev = s.ev ++ [readbackEvent v s.tap s.serView] := observe_ev v s

theorem step_serTake {s : State} {v : Byte} {rest : List Input} (hs : SerReady s) (hi : s.inputs = .serByte v :: rest) :
    step s = .next (serTake v { s with inputs := rest }) :=
  (step_eq_exec_serByte hs hi).trans (exec_rdbk_of_ready v (s := { s with inputs := rest }) hs)

/-! ### Whether A_NET may step, read off the network side -/

theorem netReady_of_netView {s t : State} (h : t.netView = s.netView) (hs : NetReady s) : NetReady t := by
  obtain ⟨hconn, hfatal, hstopped, hserial⟩ := hs
  exact ⟨(congrArg NetView.conn h).trans hconn, (congrArg NetView.fatal h).trans hfatal,
    (congrArg NetView.stopped h).trans hstopped, (congrArg NetView.serial h).trans hserial⟩

theorem tapLegal_of_netView {s t : State} (h : t.netView = s.netView) (hs : TapLegal s) : TapLegal t := by
  rw [TapLegal, show t.tap = s.tap from congrArg NetView.tap h]
  exact hs

/-! ### Any interleaving of bytes -/

/-- Whatever the interleaving, the network side is taken through the network bytes alone, in their order, and NO gains the serial
bytes in theirs. -/
theorem run_bytesOnly (tr : List Input) {s : State} (hs : NetReady s) (hl : TapLegal s) (hb : bytesOnly tr = true)
    (hi : s.inputs = tr) :
    ∃ t, run tr.length s = .next t ∧ t.netView = (netBytesOf tr).foldl netSideTake s.netView ∧
      t.no = s.no ++ serBytesOf tr ∧ t.inputs = [] := by
  induction tr generalizing s with
  | nil => exact ⟨s, rfl, rfl, (List.append_nil _).symm, hi⟩
  | cons i tr ih =>
    obtain ⟨hbi, hbtr⟩ : _ ∧ bytesOnly tr = true := Bool.and_eq_true_iff.mp hb
    cases i with
    | netByte b =>
      have hstep := step_netTake hs hi
      obtain ⟨t, hrun, hview, hno, hin⟩ :=
        ih (netTake_netReady b (s := { s with inputs := tr }) hs hl) (step_tapLegal hl hstep) hbtr (netTake_inputs b _)
      refine ⟨t, (run_of_step hstep).trans hrun, ?_, ?_, hin⟩
      · rw [hview, netTake_netView b (s := { s with inputs := tr }) hs.2.1]
        rfl
      · rw [hno, show (netTake b { s with inputs := tr }).no = s.no from
          congrArg SerView.no (netTake_serView b { s with inputs := tr })]
        rfl
    | serByte v =>
      have hstep := step_serTake hs.2 hi
      have hside : (serTake v { s with inputs := tr }).netView = s.netView := serTake_netView v _
      obtain ⟨t, hrun, hview, hno, hin⟩ :=
        ih (netReady_of_netView hside hs) (tapLegal_of_netView hside hl) hbtr (serTake_inputs v _)
      refine ⟨t, (run_of_step hstep).trans hrun, ?_, ?_, hin⟩
      · rw [hview, hside]
        rfl
      · rw [hno, serTake_no (s := { s with inputs := tr }) hs.1, List.append_assoc]
        rfl
    | _ => cases hbi

/-- Settles O54: SO is part of the network side, which the serial bytes never enter. -/
theorem everyInterleavingForwardsInOrder : Obligations.EveryInterleavingForwardsInOrder := by
  intro tr s hs hl hb hi
  obtain ⟨t, hrun, hview, hno, hin⟩ := run_bytesOnly tr hs hl hb hi
  exact ⟨t, hrun, (congrArg NetView.so hview).trans (foldl_netSideTake_so s.netView (netBytesOf tr)), hno, hin⟩

/-- Settles O55: both runs take the same network side through the same network bytes. -/
theorem serialSideNeverInfluencesTheNetworkSide : Obligations.SerialSideNeverInfluencesTheNetworkSide := by
  intro tr₁ tr₂ s₁ s₂ hs hl hview hb₁ hb₂ hbytes hi₁ hi₂
  obtain ⟨t₁, hrun₁, hview₁, -, -⟩ := run_bytesOnly tr₁ hs hl hb₁ hi₁
  obtain ⟨t₂, hrun₂, hview₂, -, -⟩ :=
    run_bytesOnly tr₂ (netReady_of_netView hview.symm hs) (tapLegal_of_netView hview.symm hl) hb₂ hi₂
  exact ⟨t₁, t₂, hrun₁, hrun₂, by rw [hview₁, hview₂, hview, hbytes]⟩

/-! ### The order of a network and a serial byte (R131) -/

/-- Settles O56: the tracker reads `TAP` before the edge in the one order, after it in the other. -/
theorem readbackRaceDependsOnTheOrder : Obligations.ReadbackRaceDependsOnTheOrder := by
  intro s d v rest hs ht hclk
  refine ⟨fun hi => ?_, fun hi => ?_⟩
  · have hser := step_serTake hs.2 hi
    have hside : (serTake v { s with inputs := .netByte (writeByte true true d) :: rest }).netView = s.netView :=
      serTake_netView v _
    have hedge := step_write_edge (netReady_of_netView hside hs) ((congrArg NetView.tap hside).trans ht)
      ((congrArg (·.sig.clk) hside).trans hclk) (serTake_inputs v _)
    refine ⟨_, run_two hser hedge, ?_, rfl⟩
    exact congrArg State.drout
      (observe_of_drshift v (s := { s with inputs := .netByte (writeByte true true d) :: rest }) ht)
  · have hedge := step_write_edge hs ht hclk hi
    refine ⟨_, run_two hedge (step_serTake hs.2 rfl), ?_, ?_, ?_⟩
    · exact ((observe_other_direction v _).1 (by simp [tapNext])).1
    · exact serTake_tap v _
    · rw [serTake_ev]
      exact List.mem_append_right _ (List.mem_singleton.mpr rfl)

/-- Two states with the same network side, serial side and trace differ at most in EV. -/
theorem eq_of_views {s t : State} (hnet : s.netView = t.netView) (hser : s.serView = t.serView)
    (hin : s.inputs = t.inputs) : { s with ev := [] } = { t with ev := [] } := by
  simp only [State.netView, NetView.mk.injEq] at hnet
  simp only [State.serView, SerView.mk.injEq] at hser
  simp [hnet, hser, hin]

/-- Where the network step leaves `TAP`, neither step reads what the other writes. -/
theorem netTake_serTake_comm {s : State} {b : Byte} (v : Byte) (hf : s.fatal = false) (htap : (netTake b s).tap = s.tap) :
    { serTake v (netTake b s) with ev := [] } = { netTake b (serTake v s) with ev := [] } := by
  refine eq_of_views ?_ ?_ ?_
  · rw [serTake_netView, netTake_netView b hf, netTake_netView b ((serTake_fatal v s).trans hf), serTake_netView]
  · rw [serTake_serView, htap, netTake_conn, netTake_serView, netTake_serView, serTake_serView]
  · rw [serTake_inputs, netTake_inputs, netTake_inputs, serTake_inputs]

/-- Each of the two adds the same records in either order. -/
theorem netTake_serTake_ev_perm {s : State} {b : Byte} (v : Byte) (htap : (netTake b s).tap = s.tap) :
    (serTake v (netTake b s)).ev.Perm (netTake b (serTake v s)).ev := by
  rw [serTake_ev, htap, netTake_serView, netTake_ev, netTake_ev, serTake_ev, serTake_sig, serTake_tap, List.append_assoc,
    List.append_assoc]
  exact List.perm_append_comm.append_left _

theorem run_net_then_ser {s : State} (b v : Byte) (hs : NetReady s) (hl : TapLegal s) :
    run 2 { s with inputs := [.netByte b, .serByte v] } = .next (serTake v (netTake b { s with inputs := [] })) := by
  have hnet := step_netTake (s := { s with inputs := [.netByte b, .serByte v] }) hs rfl
  have hready := netTake_netReady b (s := { s with inputs := [.serByte v] }) hs hl
  rw [run_two hnet (step_serTake hready.2 (netTake_inputs b _))]
  exact congrArg (fun t => Host.Outcome.next (serTake v t))
    (netBody_mapInputs (fun _ => []) (decodeNet b) (State.sendSo b { s with inputs := [.serByte v] })).symm

theorem run_ser_then_net {s : State} (b v : Byte) (hs : NetReady s) :
    run 2 { s with inputs := [.serByte v, .netByte b] } = .next (netTake b (serTake v { s with inputs := [] })) := by
  have hser := step_serTake (s := { s with inputs := [.serByte v, .netByte b] }) hs.2 rfl
  have hready : NetReady (serTake v { s with inputs := [.netByte b] }) :=
    netReady_of_netView (serTake_netView v { s with inputs := [.netByte b] }) hs
  rw [run_two hser (step_netTake hready (serTake_inputs v _))]
  exact congrArg (fun t => Host.Outcome.next (netTake b (forward v t)))
    (observe_mapInputs (fun _ => []) v { s with inputs := [.netByte b] }).symm

/-- Settles O57: the two orders are the two compositions of the agents' steps. -/
theorem ordersAgreeWhenTapStays : Obligations.OrdersAgreeWhenTapStays := by
  intro s b v t hs hl h htap
  have htake : (netTake b s).tap = s.tap := by
    rw [exec_decodeNet hs b] at h
    cases h
    exact htap
  have htake' : (netTake b { s with inputs := [] }).tap = s.tap :=
    (congrArg State.tap (netBody_mapInputs (fun _ => []) (decodeNet b) (s.sendSo b))).trans htake
  exact ⟨_, _, run_net_then_ser b v hs hl, run_ser_then_net b v hs,
    netTake_serTake_comm (s := { s with inputs := [] }) v hs.2.1 htake',
    netTake_serTake_ev_perm (s := { s with inputs := [] }) v htake'⟩

end Sys2Proof.Machine
end
